-- ==== Sys2Proof/Word.lean ====
section
/-! DEFINITION. The widths of the machine (00_scope.md R9): bytes, addresses, the program counter with its
overflow bit, opcodes, and register numbers. -/
namespace Sys2Proof

/-- A general register, a timer or a memory byte: 8 bits (R9, R16, R26, R35). -/
abbrev Byte := BitVec 8

/-- An address, the index register or a call-stack entry: 12 bits (R9, R19, R23, R34). -/
abbrev Addr := BitVec 12

/-- The program counter: 12 address bits and one overflow bit above them (R20). -/
abbrev Pc := BitVec 13

/-- An opcode: 16 bits (R52). -/
abbrev Opcode := BitVec 16

/-- The number of a general register, V0 to VF (R16). -/
abbrev Reg := Fin 16

/-- VF, register 15, the flag register (R18). -/
abbrev vf : Reg := 15

/-- A 12-bit target as a program-counter value: the overflow bit is clear (R20). -/
def Addr.toPc (a : Addr) : Pc := a.setWidth 13

end Sys2Proof
end

