-- ==== Sys2Proof/Syntax.lean ====
section
/-! DEFINITION. The instructions: one constructor for each row of spec/opcode_table.json, in the decode table's order
(30_encoding.md R56). Operands are named as R53 names the fields: x, y registers, nn a byte, nnn an address, n a count. -/
namespace Sys2Proof

/-- The 35 instruction families (R2, R56). -/
inductive Instr where
  /-- 00E0 CLS (R98). -/
  | cls
  /-- 00EE RET (R67). -/
  | ret
  /-- 0NNN SYS, legacy (R75). -/
  | sys (nnn : Addr)
  /-- 1NNN JP addr (R68). -/
  | jp (nnn : Addr)
  /-- 2NNN CALL addr (R69). -/
  | call (nnn : Addr)
  /-- 3XNN SE Vx, byte (R70). -/
  | seImm (x : Reg) (nn : Byte)
  /-- 4XNN SNE Vx, byte (R71). -/
  | sneImm (x : Reg) (nn : Byte)
  /-- 5XY0 SE Vx, Vy (R72). -/
  | seReg (x y : Reg)
  /-- 6XNN LD Vx, byte (R78). -/
  | ldImm (x : Reg) (nn : Byte)
  /-- 7XNN ADD Vx, byte (R79). -/
  | addImm (x : Reg) (nn : Byte)
  /-- 8XY0 LD Vx, Vy (R80). -/
  | ldReg (x y : Reg)
  /-- 8XY1 OR Vx, Vy (R81). -/
  | orReg (x y : Reg)
  /-- 8XY2 AND Vx, Vy (R82). -/
  | andReg (x y : Reg)
  /-- 8XY3 XOR Vx, Vy (R83). -/
  | xorReg (x y : Reg)
  /-- 8XY4 ADD Vx, Vy (R84). -/
  | addReg (x y : Reg)
  /-- 8XY5 SUB Vx, Vy (R85). -/
  | sub (x y : Reg)
  /-- 8XY6 SHR Vx (R86); y is the source when `SHIFT_SRC` = VY. -/
  | shr (x y : Reg)
  /-- 8XY7 SUBN Vx, Vy (R87). -/
  | subn (x y : Reg)
  /-- 8XYE SHL Vx (R88); y is the source when `SHIFT_SRC` = VY. -/
  | shl (x y : Reg)
  /-- 9XY0 SNE Vx, Vy (R73). -/
  | sneReg (x y : Reg)
  /-- ANNN LD I, addr (R90). -/
  | ldI (nnn : Addr)
  /-- BNNN JP V0, addr (R74). -/
  | jpV0 (nnn : Addr)
  /-- CXNN RND Vx, byte (R89). -/
  | rnd (x : Reg) (nn : Byte)
  /-- DXYN DRW Vx, Vy, nibble (R99). -/
  | drw (x y : Reg) (n : Fin 16)
  /-- EX9E SKP Vx (R101). -/
  | skp (x : Reg)
  /-- EXA1 SKNP Vx (R102). -/
  | sknp (x : Reg)
  /-- FX07 LD Vx, DT (R103). -/
  | ldVxDt (x : Reg)
  /-- FX0A LD Vx, K (R104). -/
  | ldVxK (x : Reg)
  /-- FX15 LD DT, Vx (R105). -/
  | ldDtVx (x : Reg)
  /-- FX18 LD ST, Vx (R106). -/
  | ldStVx (x : Reg)
  /-- FX1E ADD I, Vx (R91). -/
  | addI (x : Reg)
  /-- FX29 LD F, Vx (R92). -/
  | ldF (x : Reg)
  /-- FX33 LD B, Vx (R93). -/
  | ldB (x : Reg)
  /-- FX55 LD [I], Vx (R94). -/
  | stRegs (x : Reg)
  /-- FX65 LD Vx, [I] (R95). -/
  | ldRegs (x : Reg)
deriving DecidableEq, Repr

end Sys2Proof
end

