-- ==== Sys2Proof/Decode.lean ====
section
/-! DEFINITION. The decoder: the ordered table of (mask, value) pairs of 30_encoding.md R56, first match wins, total on
any bytes and rejecting by name; after it the encoder, written from the formats of R54 and the patterns of R56. -/
namespace Sys2Proof

/-! ### The fields of an opcode (R53) -/

/-- The four-bit field of an opcode from bit `lo` up. -/
def nibbleAt (op : Opcode) (lo : Nat) : Fin 16 := (op.extractLsb' lo 4).toFin

/-- X = op[11:8] (R53). -/
def fieldX (op : Opcode) : Reg := nibbleAt op 8

/-- Y = op[7:4] (R53). -/
def fieldY (op : Opcode) : Reg := nibbleAt op 4

/-- N = op[3:0] (R53). -/
def fieldN (op : Opcode) : Fin 16 := nibbleAt op 0

/-- NN = op[7:0] (R53). -/
def fieldNN (op : Opcode) : Byte := op.extractLsb' 0 8

/-- NNN = op[11:0] (R53). -/
def fieldNNN (op : Opcode) : Addr := op.extractLsb' 0 12

/-! ### The decode table (R56) -/

/-- One entry of the decode table: it selects the opcodes with `op & mask = value` (R56). -/
structure DecodeRow where
  mask : Opcode
  value : Opcode
  build : Opcode → Instr

/-- Entries 1 to 8 of R56. -/
def decodeRowsControl : List DecodeRow :=
  [ ⟨0xFFFF#16, 0x00E0#16, fun _ => .cls⟩,
    ⟨0xFFFF#16, 0x00EE#16, fun _ => .ret⟩,
    ⟨0xF000#16, 0x0000#16, fun op => .sys (fieldNNN op)⟩,
    ⟨0xF000#16, 0x1000#16, fun op => .jp (fieldNNN op)⟩,
    ⟨0xF000#16, 0x2000#16, fun op => .call (fieldNNN op)⟩,
    ⟨0xF000#16, 0x3000#16, fun op => .seImm (fieldX op) (fieldNN op)⟩,
    ⟨0xF000#16, 0x4000#16, fun op => .sneImm (fieldX op) (fieldNN op)⟩,
    ⟨0xF00F#16, 0x5000#16, fun op => .seReg (fieldX op) (fieldY op)⟩ ]

/-- Entries 9 to 19 of R56. -/
def decodeRowsAlu : List DecodeRow :=
  [ ⟨0xF000#16, 0x6000#16, fun op => .ldImm (fieldX op) (fieldNN op)⟩,
    ⟨0xF000#16, 0x7000#16, fun op => .addImm (fieldX op) (fieldNN op)⟩,
    ⟨0xF00F#16, 0x8000#16, fun op => .ldReg (fieldX op) (fieldY op)⟩,
    ⟨0xF00F#16, 0x8001#16, fun op => .orReg (fieldX op) (fieldY op)⟩,
    ⟨0xF00F#16, 0x8002#16, fun op => .andReg (fieldX op) (fieldY op)⟩,
    ⟨0xF00F#16, 0x8003#16, fun op => .xorReg (fieldX op) (fieldY op)⟩,
    ⟨0xF00F#16, 0x8004#16, fun op => .addReg (fieldX op) (fieldY op)⟩,
    ⟨0xF00F#16, 0x8005#16, fun op => .sub (fieldX op) (fieldY op)⟩,
    ⟨0xF00F#16, 0x8006#16, fun op => .shr (fieldX op) (fieldY op)⟩,
    ⟨0xF00F#16, 0x8007#16, fun op => .subn (fieldX op) (fieldY op)⟩,
    ⟨0xF00F#16, 0x800E#16, fun op => .shl (fieldX op) (fieldY op)⟩ ]

/-- Entries 20 to 26 of R56. -/
def decodeRowsMiddle : List DecodeRow :=
  [ ⟨0xF00F#16, 0x9000#16, fun op => .sneReg (fieldX op) (fieldY op)⟩,
    ⟨0xF000#16, 0xA000#16, fun op => .ldI (fieldNNN op)⟩,
    ⟨0xF000#16, 0xB000#16, fun op => .jpV0 (fieldNNN op)⟩,
    ⟨0xF000#16, 0xC000#16, fun op => .rnd (fieldX op) (fieldNN op)⟩,
    ⟨0xF000#16, 0xD000#16, fun op => .drw (fieldX op) (fieldY op) (fieldN op)⟩,
    ⟨0xF0FF#16, 0xE09E#16, fun op => .skp (fieldX op)⟩,
    ⟨0xF0FF#16, 0xE0A1#16, fun op => .sknp (fieldX op)⟩ ]

/-- Entries 27 to 35 of R56. -/
def decodeRowsMisc : List DecodeRow :=
  [ ⟨0xF0FF#16, 0xF007#16, fun op => .ldVxDt (fieldX op)⟩,
    ⟨0xF0FF#16, 0xF00A#16, fun op => .ldVxK (fieldX op)⟩,
    ⟨0xF0FF#16, 0xF015#16, fun op => .ldDtVx (fieldX op)⟩,
    ⟨0xF0FF#16, 0xF018#16, fun op => .ldStVx (fieldX op)⟩,
    ⟨0xF0FF#16, 0xF01E#16, fun op => .addI (fieldX op)⟩,
    ⟨0xF0FF#16, 0xF029#16, fun op => .ldF (fieldX op)⟩,
    ⟨0xF0FF#16, 0xF033#16, fun op => .ldB (fieldX op)⟩,
    ⟨0xF0FF#16, 0xF055#16, fun op => .stRegs (fieldX op)⟩,
    ⟨0xF0FF#16, 0xF065#16, fun op => .ldRegs (fieldX op)⟩ ]

/-- The whole table, in the order of R56 (order is the tie-break: 00E0 and 00EE stand before 0NNN). -/
def decodeTable : List DecodeRow := decodeRowsControl ++ decodeRowsAlu ++ decodeRowsMiddle ++ decodeRowsMisc

/-! ### The decoder -/

/-- Why bytes are no instruction. -/
inductive DecodeError where
  /-- Fewer than two bytes: "a decoder always consumes two bytes" (R52). -/
  | truncated
  /-- No entry of the table matches the opcode (R56, R58). -/
  | unknownInstruction (op : Opcode)
deriving DecidableEq, Repr

/-- `DecodeRow.accepts r op` is `(op & mask) = value` (R56). -/
def DecodeRow.accepts (r : DecodeRow) (op : Opcode) : Bool := op &&& r.mask == r.value

/-- The first entry that matches selects the instruction (R56). -/
def decodeWord (op : Opcode) : Except DecodeError Instr :=
  match decodeTable.find? (fun r => r.accepts op) with
  | some r => .ok (r.build op)
  | none => .error (.unknownInstruction op)

/-- Two bytes make an opcode, the most-significant byte first (R37, R52). -/
def opcodeOf (hi lo : Byte) : Opcode := hi ++ lo

/-- Decode the instruction at the head of a byte sequence, and give the bytes after it. -/
def decode : List Byte → Except DecodeError (Instr × List Byte)
  | hi :: lo :: rest =>
    match decodeWord (opcodeOf hi lo) with
    | .ok i => .ok (i, rest)
    | .error e => .error e
  | [] | [_] => .error .truncated

/-- The high byte of an opcode, stored at the lower address (R37). -/
def highByte (op : Opcode) : Byte := op.extractLsb' 8 8

/-- The low byte of an opcode, stored at the higher address (R37). -/
def lowByte (op : Opcode) : Byte := op.extractLsb' 0 8

/-- What the decoder reads from an instruction whose bits, numbered as spec/opcode_table.json numbers them, are the low
`nbits` bits of `w`, laid out in memory high byte first. -/
def decodeTableWord (nbits w : Nat) : Option Instr :=
  match decode [highByte (BitVec.ofNat 16 (w % 2 ^ nbits)), lowByte (BitVec.ofNat 16 (w % 2 ^ nbits))] with
  | .ok (i, _) => some i
  | .error _ => none

/-! ### The encoder (R54) -/

/-- Format `FA`: class, address. -/
def formFA (h : BitVec 4) (nnn : Addr) : Opcode := h ++ nnn

/-- Format `FXK`: class, register, byte. -/
def formFXK (h : BitVec 4) (x : Reg) (nn : Byte) : Opcode := h ++ BitVec.ofFin (w := 4) x ++ nn

/-- Format `FXY` and `FXYN`: class, two registers, low nibble. -/
def formFXY (h : BitVec 4) (x y : Reg) (n : Fin 16) : Opcode :=
  h ++ BitVec.ofFin (w := 4) x ++ BitVec.ofFin (w := 4) y ++ BitVec.ofFin (w := 4) n

/-- The opcode of an instruction (R54, R56). -/
def encode : Instr → Opcode
  | .cls => 0x00E0
  | .ret => 0x00EE
  | .sys nnn => formFA 0x0 nnn
  | .jp nnn => formFA 0x1 nnn
  | .call nnn => formFA 0x2 nnn
  | .seImm x nn => formFXK 0x3 x nn
  | .sneImm x nn => formFXK 0x4 x nn
  | .seReg x y => formFXY 0x5 x y 0x0
  | .ldImm x nn => formFXK 0x6 x nn
  | .addImm x nn => formFXK 0x7 x nn
  | .ldReg x y => formFXY 0x8 x y 0x0
  | .orReg x y => formFXY 0x8 x y 0x1
  | .andReg x y => formFXY 0x8 x y 0x2
  | .xorReg x y => formFXY 0x8 x y 0x3
  | .addReg x y => formFXY 0x8 x y 0x4
  | .sub x y => formFXY 0x8 x y 0x5
  | .shr x y => formFXY 0x8 x y 0x6
  | .subn x y => formFXY 0x8 x y 0x7
  | .shl x y => formFXY 0x8 x y 0xE
  | .sneReg x y => formFXY 0x9 x y 0x0
  | .ldI nnn => formFA 0xA nnn
  | .jpV0 nnn => formFA 0xB nnn
  | .rnd x nn => formFXK 0xC x nn
  | .drw x y n => formFXY 0xD x y n
  | .skp x => formFXK 0xE x 0x9E
  | .sknp x => formFXK 0xE x 0xA1
  | .ldVxDt x => formFXK 0xF x 0x07
  | .ldVxK x => formFXK 0xF x 0x0A
  | .ldDtVx x => formFXK 0xF x 0x15
  | .ldStVx x => formFXK 0xF x 0x18
  | .addI x => formFXK 0xF x 0x1E
  | .ldF x => formFXK 0xF x 0x29
  | .ldB x => formFXK 0xF x 0x33
  | .stRegs x => formFXK 0xF x 0x55
  | .ldRegs x => formFXK 0xF x 0x65

/-- The bytes of an instruction as memory holds them, high byte first (R37). -/
def encodeBytes (i : Instr) : List Byte := [highByte (encode i), lowByte (encode i)]

end Sys2Proof
end

