-- ==== Sys2Proof/Config.lean ====
section
/-! DEFINITION. The parameters that the source leaves open and a model takes as arguments (00_scope.md R10), and the
free value of the random oracle. The parameters of one machine are the field `cfg` of State, which no step changes
(log 1); the spec's defaults stand in Machine/Defaults.lean. -/
namespace Sys2Proof

/-- `RND_MODE`: the range of a CXNN draw (R10, R89). -/
inductive RndMode where
  | halfOpen
  | inclusive
  | andMask
deriving DecidableEq, Repr

/-- `SHIFT_SRC`: which register 8XY6 and 8XYE shift (R10, R86, R88). -/
inductive ShiftSrc where
  | vx
  | vy
deriving DecidableEq, Repr

/-- `FX0A_MODE`: how LD Vx, K waits (R10, R104). -/
inductive Fx0aMode where
  | repoll
  | literalSkip
deriving DecidableEq, Repr

/-- `FONT`: the 80 bytes that reset puts at address 0 (R9, R10, R45). -/
abbrev Font := Vector Byte 80

/-- The parameters of R10, one field each (the `Rand` oracle is `Config.freeDraw`). -/
structure Config where
  /-- `CYCLES_PER_TICK`: the cycles of one batch (R108). -/
  cyclesPerTick : Nat
  /-- `FONT` (R45). -/
  font : Font
  /-- `BNNN_REF_OFFSET` (R74). -/
  bnnnRefOffset : Bool
  /-- `RND_MODE` (R89). -/
  rndMode : RndMode
  /-- `SHIFT_SRC` (R86, R88). -/
  shiftSrc : ShiftSrc
  /-- `FX0A_MODE` (R104). -/
  fx0aMode : Fx0aMode
  /-- `PC_SEQ_WRAP` (R20, R63). -/
  pcSeqWrap : Bool
deriving DecidableEq, Repr

/-- The `Rand` oracle (R10, R89, U5): the byte of its `n`-th draw. It has no body, so nothing can be proved of the
values it gives (log 3). -/
opaque Config.freeDraw : Nat → Byte

end Sys2Proof
end

