-- ==== Sys2Proof/Machine/Defaults.lean ====
section
/-! DEFINITION. The spec's default value of every parameter (00_scope.md R10) and the default font (20_memory.md R45). -/
namespace Sys2Proof.Machine

/-- The glyphs of the digits 0 to 7, five bytes each (R45). -/
def fontGlyphsLow : List Byte :=
  [0xF0, 0x90, 0x90, 0x90, 0xF0] ++ [0x20, 0x60, 0x20, 0x20, 0x70] ++
  [0xF0, 0x10, 0xF0, 0x80, 0xF0] ++ [0xF0, 0x10, 0xF0, 0x10, 0xF0] ++
  [0x90, 0x90, 0xF0, 0x10, 0x10] ++ [0xF0, 0x80, 0xF0, 0x10, 0xF0] ++
  [0xF0, 0x80, 0xF0, 0x90, 0xF0] ++ [0xF0, 0x10, 0x20, 0x40, 0x40]

/-- The glyphs of the digits 8 to F, five bytes each (R45). -/
def fontGlyphsHigh : List Byte :=
  [0xF0, 0x90, 0xF0, 0x90, 0xF0] ++ [0xF0, 0x90, 0xF0, 0x10, 0xF0] ++
  [0xF0, 0x90, 0xF0, 0x90, 0x90] ++ [0xE0, 0x90, 0xE0, 0x90, 0xE0] ++
  [0xF0, 0x80, 0x80, 0x80, 0xF0] ++ [0xE0, 0x90, 0x90, 0x90, 0xE0] ++
  [0xF0, 0x80, 0xF0, 0x80, 0xF0] ++ [0xF0, 0x80, 0xF0, 0x80, 0x80]

/-- The default `FONT`: the conventional CHIP-8 hex font (R45, D19). -/
def defaultFont : Font := Vector.mk (fontGlyphsLow ++ fontGlyphsHigh).toArray (by decide)

/-- The defaults of R10; `CYCLES_PER_TICK` is OPEN there and takes the source's example, 4
(DESIGN CHOICE, log 2, unsafe: only the state after reset has it, and no statement rests on it). -/
def defaultConfig : Config where
  cyclesPerTick := 4
  font := defaultFont
  bnnnRefOffset := false
  rndMode := .halfOpen
  shiftSrc := .vx
  fx0aMode := .repoll
  pcSeqWrap := false

end Sys2Proof.Machine
end

