-- ==== Sys2Proof/Machine/State.lean ====
section
/-! DEFINITION. Everything the spec gives the machine (10_state.md), the parameters it runs with (00_scope.md R10), and
the model's own fields: where the tick in progress stands, the host operations to come, the events sent to the host, and
the count of random draws. All of it is plain data. -/
namespace Sys2Proof.Machine

/-- The four kinds of fatal error (10_state.md R30, 60_exceptions.md R110). -/
inductive FatalKind where
  /-- The fetch of any cycle, when pc + 1 > 0xFFF (R37). -/
  | invalidOpcodeFetch
  /-- The decode of an opcode that matches no entry (R58). -/
  | unknownInstruction
  /-- CALL with SP = 16 (R69). -/
  | callStackOverflow
  /-- RET with SP = 0 (R67). -/
  | callStackUnderflow
deriving DecidableEq, Repr

/-- The record of a fatal error: `{kind, pc, opcode}` (R30, R111). -/
structure FatalRecord where
  kind : FatalKind
  pc : Pc
  opcode : Opcode
deriving DecidableEq, Repr

/-- The operations of the host (60_exceptions.md R116). -/
inductive HostOp where
  /-- `reset()` (R123). -/
  | reset
  /-- `load(program)` (R124). -/
  | load (program : List Byte)
  /-- `start()` (R117). -/
  | start
  /-- `stop()` (R117). -/
  | stop
  /-- `setKey(k, pressed)`; an index outside 0..15 can be offered and is refused (R118). -/
  | setKey (k : Nat) (pressed : Bool)
  /-- One activation of the clock driver (R108). -/
  | tick
deriving DecidableEq, Repr

/-- A host operation to come. Inside a tick, `wait` cycles run before it may act, so that a key change can fall between any
two cycles (R118, U24); between ticks it acts in its turn (log 4). -/
structure HostInput where
  wait : Nat
  op : HostOp
deriving DecidableEq, Repr

/-- An event sent to the host (R116). -/
inductive Output where
  /-- The diagnostic of a SYS: its address and opcode (R75). -/
  | diagnostic (pc : Pc) (opcode : Opcode)
  /-- The fatal-error signal (R111). -/
  | fatal (record : FatalRecord)
  /-- `load` of a program that is too large, `ProgramTooLarge` (R124). -/
  | programTooLarge
  /-- `setKey` with an index outside 0..15, refused at the interface (R118). -/
  | keyRefused
deriving DecidableEq, Repr

/-- The display buffer: 32 rows of 64 cells (R28). Row y is `disp[y]`, column x within it is `disp[y][x]`. -/
abbrev Display := Vector (Vector Bool 64) 32

/-- The state of the block. `v` to `tone` are the spec's (10_state.md); the fields after `tone` are the model's own. -/
structure State where
  /-- V0 to VF (R16). -/
  v : Vector Byte 16
  /-- The index register I (R19). -/
  i : Addr
  /-- The program counter with its overflow bit (R20). -/
  pc : Pc
  /-- The call stack's entries (R23, R24). -/
  stack : Vector Addr 16
  /-- SP, the number of entries the call stack holds, 0 to 16 (R23). -/
  sp : Fin 17
  /-- The delay timer DT (R26). -/
  dt : Byte
  /-- The sound timer ST (R27). -/
  st : Byte
  /-- Memory (R34): the bytes that differ from the reset contents, by rising address (log 10). -/
  mem : List Host.Cell
  /-- The display buffer (R28). -/
  disp : Display
  /-- The keypad input (R29). -/
  key : Vector Bool 16
  /-- The clock driver is active (R30). -/
  running : Bool
  /-- The last fatal error (R30). -/
  err : Option FatalRecord
  /-- The tone output (R31). -/
  tone : Bool
  /-- The parameters of this machine (R10, log 1). -/
  cfg : Config
  /-- Inside a tick, the cycles its batch still has to run; none between ticks (R108, log 4). -/
  batch : Option Nat
  /-- The host operations to come, oldest first (R116, log 4). -/
  inputs : List HostInput
  /-- The events sent to the host, newest first (R116, log 9). -/
  outputs : List Output
  /-- How many draws the random oracle has answered (R89, log 3). -/
  draws : Nat
deriving DecidableEq, Repr

/-- The reasons a step can stop with a fault: none. The spec's four errors halt the run by an entry that it describes
(R111), and the model takes that entry as a next state; every address an instruction forms exists (R40, R46). Nothing
raises a fault, so nothing is unsafe in it (log 7). -/
inductive Fault : Type where
deriving DecidableEq, Repr

/-- The reasons an instruction is refused. -/
inductive Refusal where
  /-- The arm of an instruction that has no meaning yet, raised by `exec` alone; safe. No arm of this model raises it. -/
  | notModelled (mnemonic : String)
deriving DecidableEq, Repr

/-- The state after reset, which is also the state at power-on (R33, R125). The keypad, which reset leaves alone, is all
released (DESIGN CHOICE, log 12); the parameters are the spec's defaults (log 1, log 2). -/
def State.reset : State where
  v := Vector.replicate 16 0
  i := 0
  pc := 0x200
  stack := Vector.replicate 16 0
  sp := 0
  dt := 0
  st := 0
  mem := []
  disp := Vector.replicate 32 (Vector.replicate 64 false)
  key := Vector.replicate 16 false
  running := false
  err := none
  tone := false
  cfg := defaultConfig
  batch := none
  inputs := []
  outputs := []
  draws := 0

end Sys2Proof.Machine
end

