-- ==== Sys2Proof/Machine/Memory.lean ====
section
/-! DEFINITION. Memory as a list of (address, byte) pairs in one canonical form, and the two primitives over it
(20_memory.md R34, R35). -/
namespace Sys2Proof.Machine

/-- What an unlisted address reads as: the contents after reset, that is `FONT` at 0x000 to 0x04F and zero elsewhere
(R33, R45; log 10). -/
def Memory.unlisted (font : Font) (a : Nat) : Byte := if h : a < 80 then font[a] else 0

/-- `MemRead(a, 1)` (R35). -/
def Memory.read (font : Font) : List Host.Cell → Nat → Byte
  | [], a => Memory.unlisted font a
  | c :: m, a => if c.1 = a then c.2 else Memory.read font m a

/-- Put a cell in its place by address, over the cell that has the address already. -/
def Memory.insert (a : Nat) (b : Byte) : List Host.Cell → List Host.Cell
  | [] => [(a, b)]
  | c :: m =>
    if a < c.1 then (a, b) :: c :: m
    else if a = c.1 then (a, b) :: m
    else c :: Memory.insert a b m

/-- `MemWrite(a, 1, v)` (R35). Writing what an unlisted address reads as takes the entry out. -/
def Memory.write (font : Font) (m : List Host.Cell) (a : Nat) (b : Byte) : List Host.Cell :=
  if b = Memory.unlisted font a then m.filter (fun c => c.1 != a) else Memory.insert a b m

/-- The canonical form: addresses inside the space of R34, strictly rising, and no entry equal to what an unlisted address
reads as. Equal memories are then equal lists. -/
abbrev Memory.wf (font : Font) (m : List Host.Cell) : Prop :=
  m.Pairwise (fun c d => c.1 < d.1) ∧ ∀ c ∈ m, c.1 < 4096 ∧ c.2 ≠ Memory.unlisted font c.1

end Sys2Proof.Machine
end

