-- ==== Sys2Proof/Machine/Ops.lean ====
section
/-! DEFINITION. The shared operations over the state: registers, memory, the program counter, the call stack, the display
primitives, and the fatal-error entry of 60_exceptions.md R111 with the `start` that leaves it. -/
namespace Sys2Proof.Machine

/-! ### Registers (R16, R19, R26, R27) -/

/-- `V[x]` (R13, R16). -/
def State.getV (s : State) (x : Reg) : Byte := s.v[x.val]

/-- `V[x] <- b` (R13, R17). -/
def State.setV (s : State) (x : Reg) (b : Byte) : State := { s with v := s.v.set x.val b }

/-- `I <- a` (R19). -/
def State.setI (s : State) (a : Addr) : State := { s with i := a }

/-- `DT <- b` (R26). -/
def State.setDt (s : State) (b : Byte) : State := { s with dt := b }

/-- `ST <- b` (R27). -/
def State.setSt (s : State) (b : Byte) : State := { s with st := b }

/-! ### The program counter (R20, R63) -/

/-- `pc <- p`. -/
def State.setPc (s : State) (p : Pc) : State := { s with pc := p }

/-- `seq(a, k)`: `a + k`, modulo 4096 when `PC_SEQ_WRAP` (R20, R63). -/
def seq (cfg : Config) (a : Pc) (k : Nat) : Pc :=
  if cfg.pcSeqWrap then BitVec.ofNat 13 ((a.toNat + k) % 4096) else BitVec.ofNat 13 (a.toNat + k)

/-- `pc <- seq(a, k)`, with `a` the instruction's own address (R21). -/
def State.advance (s : State) (k : Nat) : State := s.setPc (seq s.cfg s.pc k)

/-- The advance of a skip: four when its condition holds, two when not (R65). -/
def State.skipIf (s : State) (c : Bool) : State := s.advance (if c then 4 else 2)

/-! ### Memory (R35) -/

/-- `MemRead(a, 1)`. -/
def State.memRead (s : State) (a : Addr) : Byte := Memory.read s.cfg.font s.mem a.toNat

/-- `MemWrite(a, 1, b)`. -/
def State.memWrite (s : State) (a : Addr) (b : Byte) : State :=
  { s with mem := Memory.write s.cfg.font s.mem a.toNat b }

/-- Write a sequence of bytes at `a`, `a + 1`, and so on (the copy of R124). -/
def State.writeBytes (s : State) (a : Nat) : List Byte → State
  | [] => s
  | b :: bs => State.writeBytes (s.memWrite (BitVec.ofNat 12 a) b) (a + 1) bs

/-! ### The call stack (R23) -/

/-- Push: `stack[SP] <- a; SP <- SP + 1`. Legal only when SP < 16; CALL checks it first, and at SP = 16 this leaves the
state alone. -/
def State.push (s : State) (a : Addr) : State :=
  if h : s.sp.val < 16 then { s with stack := s.stack.set s.sp.val a, sp := ⟨s.sp.val + 1, by omega⟩ } else s

/-- The depth after a pop, `SP - 1`. Legal only when SP > 0; RET checks it first. -/
def State.popDepth (s : State) : Fin 17 := ⟨s.sp.val - 1, by omega⟩

/-- The entry a pop answers, `stack[SP - 1]`. -/
def State.topEntry (s : State) : Addr := s.stack[s.sp.val - 1]

/-- Pop: `SP <- SP - 1`; the popped slot keeps its value (R67). -/
def State.pop (s : State) : State := { s with sp := s.popDepth }

/-! ### The display (R28, R96, R97) -/

/-- `disp[x][y]` (R28). -/
def Display.cell (d : Display) (x : Fin 64) (y : Fin 32) : Bool := d[y.val][x.val]

/-- `Clear()`: every cell 0 (R97). -/
def Display.clear : Display := Vector.replicate 32 (Vector.replicate 64 false)

/-- `Toggle(x, y)`: flip the cell, and say whether it went from set to unset (R96). -/
def Display.toggle (d : Display) (x : Fin 64) (y : Fin 32) : Display × Bool :=
  (d.set y.val (d[y.val].set x.val (!d.cell x y)), d.cell x y)

/-- Replace the display buffer. -/
def State.setDisp (s : State) (d : Display) : State := { s with disp := d }

/-- The host's snapshot: all 64 × 32 cells, readable between cycles (R119). -/
def State.snapshot (s : State) : Display := s.disp

/-! ### Events and draws -/

/-- Send an event to the host (R116). -/
def State.emit (s : State) (o : Output) : State := { s with outputs := o :: s.outputs }

/-- One more draw of the oracle has been answered (R89). -/
def State.countDraw (s : State) : State := { s with draws := s.draws + 1 }

/-! ### The fatal error and what leaves it (R110 to R113, R117) -/

/-- The numeric code of an error kind (R110, D21). -/
def FatalKind.code : FatalKind → Nat
  | .invalidOpcodeFetch => 1
  | .unknownInstruction => 2
  | .callStackOverflow => 3
  | .callStackUnderflow => 4

/-- The record an error leaves: its kind, the failing instruction's address and its opcode (R111). -/
def State.fatalRecord (s : State) (kind : FatalKind) (op : Opcode) : FatalRecord := ⟨kind, s.pc, op⟩

/-- `raise Fatal(kind)`: the cycle has no architectural effect; the record is kept and signalled, `running` is cleared, the
rest of the batch is skipped and the tick ends with the tone off (R111; log 8). -/
def State.raiseFatal (s : State) (kind : FatalKind) (op : Opcode) : State :=
  { s with
    err := some (s.fatalRecord kind op)
    running := false
    tone := false
    batch := none
    outputs := .fatal (s.fatalRecord kind op) :: s.outputs }

/-- `start()`: nothing when running; else a fresh run at 0x200 with the error cleared (R117). There is no return from a
fatal error (R112): with `load` and `reset`, this is what lets the core go on. -/
def State.startRun (s : State) : State :=
  if s.running then s else { s with pc := 0x200, err := none, running := true }

/-- `stop()`: the run and the tone stop, and everything else stays (R117). -/
def State.stopRun (s : State) : State :=
  if s.running then { s with running := false, tone := false } else s

end Sys2Proof.Machine
end

