-- ==== Sys2Proof/Machine/Operands.lean ====
section
/-! DEFINITION. The operand forms (30_encoding.md R55): effective addresses, the shift's source, the key a register names,
the range of a random draw, and the wrapped coordinates of a sprite. -/
namespace Sys2Proof.Machine

/-- The effective address `(I + k) & 0xFFF` (R40). -/
def State.ea (s : State) (k : Nat) : Addr := s.i + BitVec.ofNat 12 k

/-- The target of BNNN, `(NNN + V0) & 0xFFF` (R40, R74). -/
def State.indexedTarget (s : State) (nnn : Addr) : Addr := nnn + (s.getV 0).setWidth 12

/-- The address of the glyph for a digit, `(FONT_BASE + 5 * digit) & 0xFFF` with `FONT_BASE` = 0; the digit is not masked
(R92, D18). -/
def glyphAddr (digit : Byte) : Addr := BitVec.ofNat 12 (5 * digit.toNat)

/-- The value that 8XY6 and 8XYE shift: V[x], or V[y] when `SHIFT_SRC` = VY (R86, R88). -/
def State.shiftSource (s : State) (x y : Reg) : Byte :=
  match s.cfg.shiftSrc with
  | .vx => s.getV x
  | .vy => s.getV y

/-- Whether the key a register value names is pressed; a value above 15 names none (R101, D16). -/
def State.keyPressed (s : State) (k : Byte) : Bool := if h : k.toNat < 16 then s.key[k.toNat] else false

/-- The lowest pressed key, if one is pressed (R104). -/
def State.lowestKey (s : State) : Option Reg := (List.finRange 16).find? (fun k => s.key[k.val])

/-- Bring a draw `q` into the range of `Rand(nn)`: [0, nn) (and 0 for the empty range), [0, nn], or `q & nn` (R89). Every
value of the range is some draw's (log 3). -/
def drawInRange (mode : RndMode) (nn q : Byte) : Byte :=
  match mode with
  | .halfOpen => if nn = 0 then 0 else BitVec.ofNat 8 (q.toNat % nn.toNat)
  | .inclusive => BitVec.ofNat 8 (q.toNat % (nn.toNat + 1))
  | .andMask => q &&& nn

/-- `Rand(nn)`: the oracle's next answer (R89). -/
def State.rand (s : State) (nn : Byte) : Byte := drawInRange s.cfg.rndMode nn (Config.freeDraw s.draws)

/-- A column, modulo 64 (R99). -/
def wrapX (n : Nat) : Fin 64 := ⟨n % 64, by omega⟩

/-- A row, modulo 32 (R99). -/
def wrapY (n : Nat) : Fin 32 := ⟨n % 32, by omega⟩

/-- The registers of FX55 and FX65 in their order: register `k` for k = 0, 1, …, X (R55). -/
def rangeReg (k : Nat) : Reg := ⟨k % 16, by omega⟩

end Sys2Proof.Machine
end

