-- ==== Sys2Proof/Machine/Flags.lean ====
section
/-! DEFINITION. The ALU results and every computation of the flag register VF (10_state.md R25, 41_register_alu.md R76,
R77): computed exactly on numbers, then narrowed. -/
namespace Sys2Proof.Machine

/-- A condition as the flag register holds it: 1 or 0. -/
def flagOf (c : Bool) : Byte := if c then 1 else 0

/-- The sum modulo 256 (R79, R84). -/
def sumByte (a b : Byte) : Byte := BitVec.ofNat 8 (a.toNat + b.toNat)

/-- Carry: the unmasked sum is 256 or more (R84). -/
def carryFlag (a b : Byte) : Byte := flagOf (decide (256 ≤ a.toNat + b.toNat))

/-- The exact difference `a - b`, an integer from -255 to 255 (R85). -/
def difference (a b : Byte) : Int := (a.toNat : Int) - (b.toNat : Int)

/-- The difference modulo 256 (R85, R87). -/
def differenceByte (a b : Byte) : Byte := BitVec.ofInt 8 (difference a b)

/-- NOT borrow: 0 when the exact difference is negative, else 1 (R85, R87). -/
def notBorrowFlag (a b : Byte) : Byte := if difference a b < 0 then 0 else 1

/-- The bit that a shift right takes out (R86). -/
def lowBitFlag (v : Byte) : Byte := v &&& 1

/-- The bit that a shift left takes out (R88). -/
def highBitFlag (v : Byte) : Byte := (v >>> 7) &&& 1

/-- The unmasked sum of I and a register (R91). -/
def indexSum (i : Addr) (b : Byte) : Nat := i.toNat + b.toNat

/-- Overflow of the index register: the unmasked sum exceeds 0xFFF (R91). -/
def indexOverflowFlag (i : Addr) (b : Byte) : Byte := flagOf (decide (0xFFF < indexSum i b))

/-- The order of 8XY4, 8XY5 and 8XY7: the result first, then the flag, so that with x = F the flag stays (R77, D11). -/
def State.resultThenFlag (s : State) (x : Reg) (result flag : Byte) : State := (s.setV x result).setV vf flag

/-- The order of 8XY6 and 8XYE: the flag first, then the result, so that with x = F the result stays (R77, D11). -/
def State.flagThenResult (s : State) (x : Reg) (result flag : Byte) : State := (s.setV vf flag).setV x result

end Sys2Proof.Machine
end

