-- ==== Sys2Proof/Machine/ControlFlow.lean ====
section
/-! DEFINITION. The control transfer instructions (40_control_flow.md R63 to R75). -/
namespace Sys2Proof.Machine

/-- RET, 00EE (R67). -/
def execRet (s : State) : Host.Outcome State Fault Refusal :=
  if s.sp.val = 0 then .next (s.raiseFatal .callStackUnderflow (encode .ret))
  else .next (s.pop.setPc (seq s.cfg s.topEntry.toPc 2))

/-- SYS, 0NNN: a no-op that emits a diagnostic (R75). -/
def execSys (nnn : Addr) (s : State) : Host.Outcome State Fault Refusal :=
  .next ((s.emit (.diagnostic s.pc (encode (.sys nnn)))).advance 2)

/-- JP addr, 1NNN (R68). -/
def execJp (nnn : Addr) (s : State) : Host.Outcome State Fault Refusal := .next (s.setPc nnn.toPc)

/-- CALL addr, 2NNN: the value pushed is the CALL's own address (R21, R69). -/
def execCall (nnn : Addr) (s : State) : Host.Outcome State Fault Refusal :=
  if s.sp.val = 16 then .next (s.raiseFatal .callStackOverflow (encode (.call nnn)))
  else .next ((s.push (s.pc.setWidth 12)).setPc nnn.toPc)

/-- SE Vx, byte, 3XNN (R70). -/
def execSeImm (x : Reg) (nn : Byte) (s : State) : Host.Outcome State Fault Refusal :=
  .next (s.skipIf (s.getV x == nn))

/-- SNE Vx, byte, 4XNN (R71). -/
def execSneImm (x : Reg) (nn : Byte) (s : State) : Host.Outcome State Fault Refusal :=
  .next (s.skipIf (s.getV x != nn))

/-- SE Vx, Vy, 5XY0 (R72). -/
def execSeReg (x y : Reg) (s : State) : Host.Outcome State Fault Refusal :=
  .next (s.skipIf (s.getV x == s.getV y))

/-- SNE Vx, Vy, 9XY0 (R73). -/
def execSneReg (x y : Reg) (s : State) : Host.Outcome State Fault Refusal :=
  .next (s.skipIf (s.getV x != s.getV y))

/-- JP V0, addr, BNNN: lands on (NNN + V0) mod 4096, or two past it when `BNNN_REF_OFFSET` (R74). -/
def execJpV0 (nnn : Addr) (s : State) : Host.Outcome State Fault Refusal :=
  .next (s.setPc
    (if s.cfg.bnnnRefOffset then seq s.cfg (s.indexedTarget nnn).toPc 2 else (s.indexedTarget nnn).toPc))

end Sys2Proof.Machine
end

