-- ==== Sys2Proof/Machine/DisplayDraw.lean ====
section
/-! DEFINITION. The display instructions (43_display.md R98, R99): the loops of the sprite compositor over the toggle
primitive. -/
namespace Sys2Proof.Machine

/-- CLS, 00E0 (R98). -/
def execCls (s : State) : Host.Outcome State Fault Refusal := .next ((s.setDisp Display.clear).advance 2)

/-- Draw the first `n` columns of one sprite row: bit 7 - col of `b` at column (vx + col) mod 64, row `y` (the inner loop of
R99, D15). The pair is the buffer and the collision so far. -/
def drawColumns (b : Byte) (vx : Nat) (y : Fin 32) (acc : Display × Bool) : Nat → Display × Bool
  | 0 => acc
  | n + 1 =>
    match drawColumns b vx y acc n with
    | (d, c) =>
      if b.getLsbD (7 - n) then
        match d.toggle (wrapX (vx + n)) y with
        | (d', hit) => (d', c || hit)
      else (d, c)

/-- Draw the first `n` rows of the sprite at address I: row r is the byte at (I + r) mod 4096, at screen row
(vy + r) mod 32 (the outer loop of R99). -/
def State.drawRows (s : State) (vx vy : Nat) : Nat → Display × Bool
  | 0 => (s.disp, false)
  | n + 1 => drawColumns (s.memRead (s.ea n)) vx (wrapY (vy + n)) (s.drawRows vx vy n) 8

/-- DRW Vx, Vy, nibble, DXYN: the coordinates are read before VF is written (R99). -/
def execDrw (x y : Reg) (n : Fin 16) (s : State) : Host.Outcome State Fault Refusal :=
  match s.drawRows (s.getV x).toNat (s.getV y).toNat n.val with
  | (d, c) => .next (((s.setDisp d).setV vf (flagOf c)).advance 2)

end Sys2Proof.Machine
end

