-- ==== Sys2Proof/Machine/IndexMemory.lean ====
section
/-! DEFINITION. The index register and memory instructions (42_index_memory.md R90 to R95). -/
namespace Sys2Proof.Machine

/-- LD I, addr, ANNN (R90). -/
def execLdI (nnn : Addr) (s : State) : Host.Outcome State Fault Refusal := .next ((s.setI nnn).advance 2)

/-- ADD I, Vx, FX1E: VF is cleared and then set on overflow, and the addend is the old V[x] (R91, D11). -/
def execAddI (x : Reg) (s : State) : Host.Outcome State Fault Refusal :=
  .next (((s.setV vf (indexOverflowFlag s.i (s.getV x))).setI
    (BitVec.ofNat 12 (indexSum s.i (s.getV x)))).advance 2)

/-- LD F, Vx, FX29 (R92). -/
def execLdF (x : Reg) (s : State) : Host.Outcome State Fault Refusal :=
  .next ((s.setI (glyphAddr (s.getV x))).advance 2)

/-- The decimal digit of `v` with weight `w` (100, 10 or 1), as a byte (R93). -/
def digitByte (v : Byte) (w : Nat) : Byte := BitVec.ofNat 8 (v.toNat / w % 10)

/-- LD B, Vx, FX33: hundreds, tens, ones at I, I + 1, I + 2 (R93). -/
def execLdB (x : Reg) (s : State) : Host.Outcome State Fault Refusal :=
  .next ((((s.memWrite (s.ea 0) (digitByte (s.getV x) 100)).memWrite (s.ea 1) (digitByte (s.getV x) 10)).memWrite
    (s.ea 2) (digitByte (s.getV x) 1)).advance 2)

/-- Store V0, V1, … in turn, the first `n` of them, from address I up (the loop of R94). -/
def State.storeRegs (s : State) : Nat → State
  | 0 => s
  | n + 1 => (s.storeRegs n).memWrite (s.ea n) (s.getV (rangeReg n))

/-- LD [I], Vx, FX55: V0 to V[x] into memory; I is unchanged (R94). -/
def execStRegs (x : Reg) (s : State) : Host.Outcome State Fault Refusal :=
  .next ((s.storeRegs (x.val + 1)).advance 2)

/-- Load V0, V1, … in turn, the first `n` of them, from address I up (the loop of R95). -/
def State.loadRegs (s : State) : Nat → State
  | 0 => s
  | n + 1 => (s.loadRegs n).setV (rangeReg n) (s.memRead (s.ea n))

/-- LD Vx, [I], FX65: memory into V0 to V[x]; I is unchanged (R95). -/
def execLdRegs (x : Reg) (s : State) : Host.Outcome State Fault Refusal :=
  .next ((s.loadRegs (x.val + 1)).advance 2)

end Sys2Proof.Machine
end

