-- ==== Sys2Proof/Machine/KeypadTimers.lean ====
section
/-! DEFINITION. The keypad and timer instructions (44_keypad_timers.md R101 to R106). -/
namespace Sys2Proof.Machine

/-- SKP Vx, EX9E (R101). -/
def execSkp (x : Reg) (s : State) : Host.Outcome State Fault Refusal := .next (s.skipIf (s.keyPressed (s.getV x)))

/-- SKNP Vx, EXA1 (R102). -/
def execSknp (x : Reg) (s : State) : Host.Outcome State Fault Refusal := .next (s.skipIf (!s.keyPressed (s.getV x)))

/-- LD Vx, DT, FX07 (R103). -/
def execLdVxDt (x : Reg) (s : State) : Host.Outcome State Fault Refusal := .next ((s.setV x s.dt).advance 2)

/-- LD Vx, K, FX0A: poll the keypad once. `repoll` goes on only with a key and else leaves pc at this instruction;
`literalSkip` always goes on, and skips with a key (R104). -/
def execLdVxK (x : Reg) (s : State) : Host.Outcome State Fault Refusal :=
  match s.cfg.fx0aMode, s.lowestKey with
  | .repoll, some k => .next ((s.setV x (BitVec.ofNat 8 k.val)).advance 2)
  | .repoll, none => .next s
  | .literalSkip, some k => .next ((s.setV x (BitVec.ofNat 8 k.val)).advance 4)
  | .literalSkip, none => .next (s.advance 2)

/-- LD DT, Vx, FX15 (R105). -/
def execLdDtVx (x : Reg) (s : State) : Host.Outcome State Fault Refusal := .next ((s.setDt (s.getV x)).advance 2)

/-- LD ST, Vx, FX18 (R106). -/
def execLdStVx (x : Reg) (s : State) : Host.Outcome State Fault Refusal := .next ((s.setSt (s.getV x)).advance 2)

end Sys2Proof.Machine
end

