-- ==== Sys2Proof/Machine/RegisterAlu.lean ====
section
/-! DEFINITION. The register and ALU instructions (41_register_alu.md R76 to R89). Operands are read from the state before
the instruction, so a register that is also written is read first (R77). -/
namespace Sys2Proof.Machine

/-- LD Vx, byte, 6XNN (R78). -/
def execLdImm (x : Reg) (nn : Byte) (s : State) : Host.Outcome State Fault Refusal :=
  .next ((s.setV x nn).advance 2)

/-- ADD Vx, byte, 7XNN: no flag (R79). -/
def execAddImm (x : Reg) (nn : Byte) (s : State) : Host.Outcome State Fault Refusal :=
  .next ((s.setV x (sumByte (s.getV x) nn)).advance 2)

/-- LD Vx, Vy, 8XY0 (R80). -/
def execLdReg (x y : Reg) (s : State) : Host.Outcome State Fault Refusal :=
  .next ((s.setV x (s.getV y)).advance 2)

/-- OR Vx, Vy, 8XY1 (R81). -/
def execOrReg (x y : Reg) (s : State) : Host.Outcome State Fault Refusal :=
  .next ((s.setV x (s.getV x ||| s.getV y)).advance 2)

/-- AND Vx, Vy, 8XY2 (R82). -/
def execAndReg (x y : Reg) (s : State) : Host.Outcome State Fault Refusal :=
  .next ((s.setV x (s.getV x &&& s.getV y)).advance 2)

/-- XOR Vx, Vy, 8XY3 (R83). -/
def execXorReg (x y : Reg) (s : State) : Host.Outcome State Fault Refusal :=
  .next ((s.setV x (s.getV x ^^^ s.getV y)).advance 2)

/-- ADD Vx, Vy, 8XY4 (R84). -/
def execAddReg (x y : Reg) (s : State) : Host.Outcome State Fault Refusal :=
  .next ((s.resultThenFlag x (sumByte (s.getV x) (s.getV y)) (carryFlag (s.getV x) (s.getV y))).advance 2)

/-- SUB Vx, Vy, 8XY5: V[x] - V[y] (R85). -/
def execSub (x y : Reg) (s : State) : Host.Outcome State Fault Refusal :=
  .next ((s.resultThenFlag x (differenceByte (s.getV x) (s.getV y))
    (notBorrowFlag (s.getV x) (s.getV y))).advance 2)

/-- SHR Vx, 8XY6 (R86). -/
def execShr (x y : Reg) (s : State) : Host.Outcome State Fault Refusal :=
  .next ((s.flagThenResult x (s.shiftSource x y >>> 1) (lowBitFlag (s.shiftSource x y))).advance 2)

/-- SUBN Vx, Vy, 8XY7: V[y] - V[x] (R87). -/
def execSubn (x y : Reg) (s : State) : Host.Outcome State Fault Refusal :=
  .next ((s.resultThenFlag x (differenceByte (s.getV y) (s.getV x))
    (notBorrowFlag (s.getV y) (s.getV x))).advance 2)

/-- SHL Vx, 8XYE (R88). -/
def execShl (x y : Reg) (s : State) : Host.Outcome State Fault Refusal :=
  .next ((s.flagThenResult x (s.shiftSource x y <<< 1) (highBitFlag (s.shiftSource x y))).advance 2)

/-- RND Vx, byte, CXNN: one draw of the oracle (R89). -/
def execRnd (x : Reg) (nn : Byte) (s : State) : Host.Outcome State Fault Refusal :=
  .next ((s.countDraw.setV x (s.rand nn)).advance 2)

end Sys2Proof.Machine
end

