-- ==== Sys2Proof/Machine/Clock.lean ====
section
/-! DEFINITION. The clock driver (60_exceptions.md R108, R109): a tick is the timer countdown, a batch of cycles, and the
tone sample. Whose turn it is follows from plain data in the state (log 4). -/
namespace Sys2Proof.Machine

/-- Who acts in the next step. -/
inductive Turn where
  /-- Between ticks: the host's next operation, if there is one (R119, D2). -/
  | host
  /-- Between two cycles of a batch: a key change (R118). -/
  | keypad
  /-- One cycle of the batch (R107). -/
  | interpreter
  /-- The end of a tick (R108, step 3). -/
  | clock
deriving DecidableEq, Repr

/-- Inside a batch, a key change falls at this cycle boundary: it is the next input and no cycle is to run before it
(R118). -/
def State.keyDue (s : State) : Bool :=
  match s.inputs with
  | ⟨0, .setKey _ _⟩ :: _ => true
  | _ => false

/-- Whose turn it is: the host's between ticks; inside one, a key change that is due, else a cycle while the run goes on and
the batch has cycles left, else the end of the tick (R107, R108, R118, R119). -/
def State.turn (s : State) : Turn :=
  match s.batch with
  | none => .host
  | some n => if s.keyDue then .keypad else if s.running && n != 0 then .interpreter else .clock

/-- One decrement of a timer, which stops at 0 (R26, R27, R108 step 1). -/
def countDown (t : Byte) : Byte := if t = 0 then 0 else t - 1

/-- A tick begins: while running, both timers count down once and the batch is `CYCLES_PER_TICK` cycles; while not running it
does nothing (R108, D26). -/
def State.beginTick (s : State) : State :=
  if s.running then
    { s with dt := countDown s.dt, st := countDown s.st, batch := some s.cfg.cyclesPerTick }
  else s

/-- The inputs after one more cycle has run: the next one has one cycle less to wait (log 4). -/
def passCycle : List HostInput → List HostInput
  | [] => []
  | e :: rest => { e with wait := e.wait - 1 } :: rest

/-- A cycle of the batch is used (R108, step 2). Nothing of the spec's state changes. -/
def State.beginCycle (s : State) : State :=
  { s with batch := s.batch.map (· - 1), inputs := passCycle s.inputs }

/-- The end of a tick: the tone is on when the run goes on and ST is not 0 (R31, R108 step 3). -/
def State.endTick (s : State) : State :=
  { s with tone := s.running && s.st != 0, batch := none }

end Sys2Proof.Machine
end

