-- ==== Sys2Proof/Machine/HostInterface.lean ====
section
/-! DEFINITION. The operations of the host (60_exceptions.md R116 to R119, 70_reset_and_hazards.md R123, R124). `start` and
`stop` stand in Ops.lean, beside the fatal error, and a tick's beginning in Clock.lean. -/
namespace Sys2Proof.Machine

/-- `reset()`: every piece of the block's state takes its reset value; the keypad is the host's and stays (R33, R123). The
model's own record of the world outside the block (parameters, inputs to come, events sent, draws answered) stays too. -/
def State.resetBlock (s : State) : State :=
  { s with
    mem := []
    v := Vector.replicate 16 0
    i := 0
    sp := 0
    stack := Vector.replicate 16 0
    dt := 0
    st := 0
    disp := Display.clear
    pc := 0x200
    running := false
    err := none
    tone := false
    batch := none }

/-- The longest program that fits above 0x200: 3584 bytes (R43). -/
def maxProgram : Nat := 4096 - 0x200

/-- `load(program)`: a program that does not fit is refused and changes nothing; else reset, copy to 0x200, pc at 0x200
(R43, R124). -/
def State.loadProgram (s : State) (program : List Byte) : State :=
  if 4096 < 0x200 + program.length then s.emit .programTooLarge
  else (s.resetBlock.writeBytes 0x200 program).setPc 0x200

/-- `setKey(k, pressed)`: an index outside 0..15 is refused and changes nothing (R118, D27). -/
def State.setKeyInput (s : State) (k : Nat) (pressed : Bool) : State :=
  if h : k < 16 then { s with key := s.key.set k pressed } else s.emit .keyRefused

/-- Carry out one operation of the host (R116). -/
def State.deliver (s : State) : HostOp → State
  | .reset => s.resetBlock
  | .load program => s.loadProgram program
  | .start => s.startRun
  | .stop => s.stopRun
  | .setKey k pressed => s.setKeyInput k pressed
  | .tick => s.beginTick

/-- Take the oldest input and carry it out; with no input, nothing happens (R122; log 5). -/
def State.takeInput (s : State) : State :=
  match s.inputs with
  | [] => s
  | e :: rest => { s with inputs := rest }.deliver e.op

end Sys2Proof.Machine
end

