-- ==== Sys2Proof/Machine/Cycle.lean ====
section
/-! DEFINITION. One cycle (60_exceptions.md R107): fetch, decode, execute and advance; and where a word must lie to be the
next one fetched. -/
namespace Sys2Proof.Machine

/-- Fetch: the big-endian opcode at pc, or none when `pc + 1 > 0xFFF`; the second byte never wraps (R37). -/
def State.fetch (s : State) : Option Opcode :=
  if 0xFFF < s.pc.toNat + 1 then none
  else some (opcodeOf (s.memRead (BitVec.ofNat 12 s.pc.toNat)) (s.memRead (BitVec.ofNat 12 (s.pc.toNat + 1))))

/-- One cycle: the first stage that fails decides the error (R107, R113). Execute and advance are the instruction's own
rule; the opcode a failed fetch reports is 0x0000 (R111, D21). -/
def cycle (s : State) : Host.Outcome State Fault Refusal :=
  match s.fetch with
  | none => .next (s.raiseFatal .invalidOpcodeFetch 0x0000)
  | some op =>
    match decode [highByte op, lowByte op] with
    | .error _ => .next (s.raiseFatal .unknownInstruction op)
    | .ok (i, _) => exec i s

/-- Store the opcode `op` where the next cycle fetches it: at pc, or at 0x200 when pc leaves no room for one. -/
def State.placeWord (s : State) (op : Opcode) : State :=
  let s := if 0xFFF < s.pc.toNat + 1 then s.setPc 0x200 else s
  (s.memWrite (BitVec.ofNat 12 s.pc.toNat) (highByte op)).memWrite (BitVec.ofNat 12 (s.pc.toNat + 1)) (lowByte op)

/-- The run goes on and at least one cycle of a batch is left, with no key change before it: the interpreter's turn. -/
def State.readyToRun (s : State) : State :=
  { s with
    running := true
    batch := some ((s.batch.getD 1).max 1)
    inputs := if s.keyDue then [] else s.inputs }

end Sys2Proof.Machine
end

