-- ==== Sys2Proof/Machine/Step.lean ====
section
/-! DEFINITION. One step of the machine: one cycle, one operation of the host, one key change, or the end of a tick
(60_exceptions.md R107, R108, R116; log 4). -/
namespace Sys2Proof.Machine

/-- One step, by whoever's turn it is. -/
def step (s : State) : Host.Outcome State Fault Refusal :=
  match s.turn with
  | .host => .next s.takeInput
  | .keypad => .next s.takeInput
  | .interpreter => cycle s.beginCycle
  | .clock => .next s.endTick

/-- The state in which the very next step fetches and runs the instruction whose bits, numbered as spec/opcode_table.json
numbers them, are the low `nbits` bits of `w`. It stands for what the host's `load`, `start` and `tick` do (R126; log 6). -/
def State.withFetchWord (s : State) (nbits w : Nat) : State :=
  s.readyToRun.placeWord (BitVec.ofNat 16 (w % 2 ^ nbits))

end Sys2Proof.Machine
end

