-- ==== Sys2Proof/Safety.lean ====
section
/-! DEFINITION. The terms claims use: the parts of the state and what it means to leave them alone, the invariant of the
machine, and a run that is halted. -/
namespace Sys2Proof.Machine

/-- One observable part of the state. A byte of memory is what MemRead answers; a cell is what the snapshot shows. -/
inductive Part where
  | reg (x : Reg)
  | index
  | pc
  | stackDepth
  | stackEntry (k : Fin 16)
  | delay
  | sound
  | byte (a : Addr)
  | cell (x : Fin 64) (y : Fin 32)
  | key (k : Fin 16)
  | running
  | err
  | tone
  | cfg
  | batch
  | inputs
  | outputs
  | draws
deriving DecidableEq, Repr

/-- A part reads the same in two states. -/
def Part.same (s t : State) : Part → Prop
  | .reg x => t.getV x = s.getV x
  | .index => t.i = s.i
  | .pc => t.pc = s.pc
  | .stackDepth => t.sp = s.sp
  | .stackEntry k => t.stack[k.val] = s.stack[k.val]
  | .delay => t.dt = s.dt
  | .sound => t.st = s.st
  | .byte a => t.memRead a = s.memRead a
  | .cell x y => t.disp.cell x y = s.disp.cell x y
  | .key k => t.key[k.val] = s.key[k.val]
  | .running => t.running = s.running
  | .err => t.err = s.err
  | .tone => t.tone = s.tone
  | .cfg => t.cfg = s.cfg
  | .batch => t.batch = s.batch
  | .inputs => t.inputs = s.inputs
  | .outputs => t.outputs = s.outputs
  | .draws => t.draws = s.draws

/-- The frame: from `s` to `t` every part outside `written` reads the same. -/
def KeepsOutside (written : Part → Prop) (s t : State) : Prop := ∀ p, ¬ written p → p.same s t

/-- The frame with the written parts listed. -/
def KeepsAllBut (written : List Part) (s t : State) : Prop := KeepsOutside (fun p => p ∈ written) s t

/-- The invariant of the machine: memory has its canonical form; pc is at most 0x1002 (R20: the advances reach 0x1000 to
0x1002 and no further); the tone is on only while running (R30, R31); a recorded error means the run is halted (R111, R117);
a tick is in progress only while running (R108). -/
structure State.Inv (s : State) : Prop where
  memory : Memory.wf s.cfg.font s.mem
  pc : s.pc.toNat ≤ 0x1002
  tone : s.tone = true → s.running = true
  err : s.err ≠ none → s.running = false
  batch : s.batch ≠ none → s.running = true

/-- The five bytes at the address of a digit's glyph, 5 times the digit (20_memory.md R45). -/
def State.glyph (s : State) (digit : Nat) : List Byte :=
  (List.range 5).map fun k => s.memRead (BitVec.ofNat 12 (5 * digit + k))

/-- The run is stopped and no tick is in progress: after reset, `stop` or a fatal error (R112, R122). -/
def State.Halted (s : State) : Prop := s.running = false ∧ s.batch = none

/-- A step's outcome is safe when the machine goes on with no fatal error recorded. -/
def SafeOutcome : Host.Outcome State Fault Refusal → Prop
  | .next t => t.err = none
  | .fault _ => False
  | .refused _ => False

/-- The sprite of a draw has a 1 bit over the cell (cx, cy): some row `r` of its `n` rows and some column `c` of 8 wrap to
that cell, and bit 7 - c of the byte at (I + r) mod 4096 is 1 (43_display.md R99). -/
def State.SpriteCovers (s : State) (vx vy : Byte) (n : Nat) (cx : Fin 64) (cy : Fin 32) : Prop :=
  ∃ r c : Nat, r < n ∧ c < 8 ∧ cx.val = (vx.toNat + c) % 64 ∧ cy.val = (vy.toNat + r) % 32 ∧
    (s.memRead (BitVec.ofNat 12 (s.i.toNat + r))).getLsbD (7 - c) = true

end Sys2Proof.Machine
end

