-- ==== Sys2Proof/Certificates/Slice0/Obligations.lean ====
section
/-! DEFINITION. The statements for the provers. Each docstring names the rule of spec/ it comes from; where a clause rests
on a choice that the spec marks as its own (D<n> of 92_eei_decisions.md) or that the model made (log <n>), it says so. -/

open Sys2Proof Sys2Proof.Machine

/-! ### Encoding (30_encoding.md) -/

/-- Words written out from the patterns of R56 decode to their instructions (the patterns are the spec's own, D3). -/
def Obligations.SampleWordsDecode : Prop :=
  decodeWord 0x00E0 = .ok .cls ∧ decodeWord 0x00EE = .ok .ret ∧ decodeWord 0x0123 = .ok (.sys 0x123) ∧
  decodeWord 0x1234 = .ok (.jp 0x234) ∧ decodeWord 0x3A10 = .ok (.seImm 0xA 0x10) ∧
  decodeWord 0x8126 = .ok (.shr 1 2) ∧ decodeWord 0xA22A = .ok (.ldI 0x22A) ∧
  decodeWord 0xD125 = .ok (.drw 1 2 5) ∧ decodeWord 0xE19E = .ok (.skp 1) ∧ decodeWord 0xFF65 = .ok (.ldRegs 0xF)

/-- Every well-formed instruction decodes back from its word, from its bytes whatever follows them, and from the word as
the opcode table numbers its bits (R52 to R56; the patterns are D3, D4). -/
def Obligations.DecodeOfEncode : Prop :=
  ∀ (i : Instr) (rest : List Byte), i.wellFormed = true →
    decodeWord (encode i) = .ok i ∧ decode (encodeBytes i ++ rest) = .ok (i, rest) ∧
    decodeTableWord 16 (encode i).toNat = some i

/-- A word that decodes is the encoding of what it decodes to, which is well formed: no bit of an opcode is dropped
(R53 to R56; D3, D4). -/
def Obligations.EncodeOfDecode : Prop :=
  ∀ (op : Opcode) (i : Instr), decodeWord op = .ok i → i.wellFormed = true ∧ encode i = op

/-- The illegal opcodes are exactly the five lists of R58 (masks: D4). -/
def Obligations.IllegalOpcodesAreTheListedOnes : Prop :=
  ∀ op : Opcode,
    decodeWord op = .error (.unknownInstruction op) ↔
      (op.toNat / 0x1000 = 0x5 ∧ op.toNat % 16 ≠ 0) ∨
      (op.toNat / 0x1000 = 0x8 ∧ op.toNat % 16 ∈ [0x8, 0x9, 0xA, 0xB, 0xC, 0xD, 0xF]) ∨
      (op.toNat / 0x1000 = 0x9 ∧ op.toNat % 16 ≠ 0) ∨
      (op.toNat / 0x1000 = 0xE ∧ op.toNat % 256 ∉ [0x9E, 0xA1]) ∨
      (op.toNat / 0x1000 = 0xF ∧ op.toNat % 256 ∉ [0x07, 0x0A, 0x15, 0x18, 0x1E, 0x29, 0x33, 0x55, 0x65])

/-- The first entry that matches selects the instruction, and the only overlap of two entries is 00E0 or 00EE with 0NNN,
where the earlier one wins (R56; masks and order: D4). -/
def Obligations.FirstMatchingEntryWins : Prop :=
  (∀ (op : Opcode) (i : Instr), decodeWord op = .ok i ↔
    ∃ (k : Nat) (r : DecodeRow), decodeTable[k]? = some r ∧ op &&& r.mask = r.value ∧ r.build op = i ∧
      ∀ (j : Nat) (q : DecodeRow), j < k → decodeTable[j]? = some q → op &&& q.mask ≠ q.value) ∧
  (∀ (op : Opcode) (j k : Nat) (q r : DecodeRow), j < k → decodeTable[j]? = some q → decodeTable[k]? = some r →
    op &&& q.mask = q.value → op &&& r.mask = r.value →
    k = 2 ∧ (j = 0 ∧ op = 0x00E0 ∧ decodeWord op = .ok .cls ∨ j = 1 ∧ op = 0x00EE ∧ decodeWord op = .ok .ret))

/-! ### The step and the cycle (60_exceptions.md) -/

/-- When it is the interpreter's turn and the bytes at pc decode to `i`, the step is `exec i`, on the state whose batch has
one cycle less and whose next host input has one cycle less to wait (R107, R108; how a tick is cut into steps is log 4). -/
def Obligations.StepRunsTheDecodedInstruction : Prop :=
  ∀ (s : State) (n : Nat) (hi lo : Byte) (i : Instr),
    s.running = true → s.batch = some (n + 1) → s.keyDue = false → s.pc.toNat ≤ 0xFFE →
    s.memRead (BitVec.ofNat 12 s.pc.toNat) = hi → s.memRead (BitVec.ofNat 12 (s.pc.toNat + 1)) = lo →
    decode [hi, lo] = .ok (i, []) →
    step s = exec i s.beginCycle ∧ s.beginCycle.batch = some n ∧ s.beginCycle.inputs = passCycle s.inputs ∧
    KeepsAllBut [.batch, .inputs] s s.beginCycle

/-- R107, the four steps of a cycle: the fetch check, the big-endian opcode, the decode check, the instruction's own rule; only
CALL and RET raise while executing; a cycle that raises has none of its effects; no cycle runs while `running` is 0. -/
def Obligations.CycleFetchesDecodesExecutes : Prop :=
  (∀ s : State, s.pc.toNat + 1 > 0xFFF → ∃ op, cycle s = .next (s.raiseFatal .invalidOpcodeFetch op)) ∧
  (∀ (s : State) (op : Opcode), s.pc.toNat + 1 ≤ 0xFFF →
    op.toNat = 256 * (s.memRead (BitVec.ofNat 12 s.pc.toNat)).toNat
      + (s.memRead (BitVec.ofNat 12 (s.pc.toNat + 1))).toNat →
    ((∀ r ∈ decodeTable, op &&& r.mask ≠ r.value) → cycle s = .next (s.raiseFatal .unknownInstruction op)) ∧
    (∀ i, decodeWord op = .ok i → cycle s = exec i s)) ∧
  (∀ (s : State) (i : Instr) (kind : FatalKind) (op : Opcode), exec i s = .next (s.raiseFatal kind op) →
    (∃ nnn, i = .call nnn ∧ kind = .callStackOverflow) ∨ (i = .ret ∧ kind = .callStackUnderflow)) ∧
  (∀ (s : State) (kind : FatalKind) (op : Opcode),
    KeepsAllBut [.err, .running, .tone, .batch, .outputs] s (s.raiseFatal kind op)) ∧
  (∀ s : State, s.running = false → step s = .next s.takeInput ∨ step s = .next s.endTick)

/-- The fatal-error entry (R111; its record and the cleared run are D21): what it writes, and that everything else stays; a
fetch error reports opcode 0x0000. The end of the tick in the same step is log 8, the list `outputs` log 9. -/
def Obligations.FatalErrorEntry : Prop :=
  (∀ (s : State) (kind : FatalKind) (op : Opcode),
    (s.raiseFatal kind op).err = some ⟨kind, s.pc, op⟩ ∧ (s.raiseFatal kind op).running = false ∧
    (s.raiseFatal kind op).tone = false ∧ (s.raiseFatal kind op).batch = none ∧
    (s.raiseFatal kind op).outputs = .fatal ⟨kind, s.pc, op⟩ :: s.outputs ∧
    KeepsAllBut [.err, .running, .tone, .batch, .outputs] s (s.raiseFatal kind op)) ∧
  (∀ s : State, s.pc.toNat ≥ 0xFFF → cycle s = .next (s.raiseFatal .invalidOpcodeFetch 0x0000)) ∧
  [FatalKind.invalidOpcodeFetch, .unknownInstruction, .callStackOverflow, .callStackUnderflow].map FatalKind.code
    = [1, 2, 3, 4]

/-- Every step goes on, and a step that records a new error is one cycle that met exactly that error's cause, at its own pc,
with nothing of the program's state changed and the run halted (R110, R111; state at an error and reported opcode: D21;
that an error is a next state: log 7; the list `outputs`: log 9). -/
def Obligations.NewErrorsArePrecise : Prop :=
  ∀ s : State, ∃ t, step s = .next t ∧ ∀ r : FatalRecord, t.err = some r → t.err ≠ s.err →
    r.pc = s.pc ∧ t.running = false ∧ t.tone = false ∧ t.batch = none ∧ t.outputs = .fatal r :: s.outputs ∧
    KeepsAllBut [.err, .running, .tone, .batch, .outputs, .inputs] s t ∧
    match r.kind with
    | .invalidOpcodeFetch => s.fetch = none ∧ r.opcode = 0x0000
    | .unknownInstruction => s.fetch = some r.opcode ∧ decodeWord r.opcode = .error (.unknownInstruction r.opcode)
    | .callStackOverflow => s.fetch = some r.opcode ∧ r.opcode.toNat / 0x1000 = 2 ∧ s.sp.val = 16
    | .callStackUnderflow => s.fetch = some r.opcode ∧ r.opcode = 0x00EE ∧ s.sp.val = 0

/-- A halted run stays halted: with no input, or with a `stop`, a `tick` or a `setKey` next, a step changes nothing but the
keypad and the host's own lists; only `start` makes it run (R112, R122; timers while stopped: D26; a step with nothing
to do: log 5). -/
def Obligations.HaltedRunStaysHalted : Prop :=
  (∀ s : State, s.Halted → s.inputs = [] → step s = .next s) ∧
  (∀ (s : State) (w : Nat) (op : HostOp) (rest : List HostInput), s.Halted → s.inputs = ⟨w, op⟩ :: rest →
    (op = .stop ∨ op = .tick ∨ ∃ k pressed, op = .setKey k pressed) →
    ∃ t, step s = .next t ∧ t.Halted ∧ t.inputs = rest ∧
      KeepsOutside (fun p => p = .inputs ∨ p = .outputs ∨ ∃ k, p = .key k) s t) ∧
  (∀ s t : State, s.Halted → step s = .next t → t.running = true → ∃ w rest, s.inputs = ⟨w, .start⟩ :: rest)

/-! ### The tick (60_exceptions.md R108, R109) -/

/-- A tick begins with one decrement of each timer that is not 0, and opens a batch of `CYCLES_PER_TICK` cycles; while the run
is stopped it does nothing (R108 step 1; order D25, stopped D26; the batch as a field is log 4). -/
def Obligations.TickCountsTimersDownOnce : Prop :=
  ∀ (s : State) (w : Nat) (rest : List HostInput), s.batch = none → s.inputs = ⟨w, .tick⟩ :: rest →
    (s.running = true → ∃ t, step s = .next t ∧ t.dt.toNat = s.dt.toNat - 1 ∧ t.st.toNat = s.st.toNat - 1 ∧
      t.batch = some s.cfg.cyclesPerTick ∧ t.inputs = rest ∧
      KeepsAllBut [.delay, .sound, .batch, .inputs] s t) ∧
    (s.running = false → ∃ t, step s = .next t ∧ t.inputs = rest ∧ KeepsAllBut [.inputs] s t)

/-- One cycle uses one of the batch's cycles, or ends the tick by a fatal error (R108 step 2, R111; log 4, log 8). -/
def Obligations.BatchRunsOneCycleAtATime : Prop :=
  ∀ (s : State) (n : Nat), s.running = true → s.batch = some (n + 1) → s.keyDue = false →
    ∃ t, step s = .next t ∧ t.cfg = s.cfg ∧ t.inputs = passCycle s.inputs ∧
      ((t.running = true ∧ t.batch = some n ∧ t.tone = s.tone) ∨
       (t.running = false ∧ t.batch = none ∧ t.tone = false ∧ ∃ r, t.err = some r ∧ r.pc = s.pc))

/-- When no cycle of the batch is left the tick ends: the tone is on exactly when the run goes on and ST is not 0, and nothing
else changes (R31, R108 step 3; D25). -/
def Obligations.TickEndSamplesTheTone : Prop :=
  ∀ (s : State) (n : Nat), s.batch = some n → s.keyDue = false → (n = 0 ∨ s.running = false) →
    ∃ t, step s = .next t ∧ (t.tone = true ↔ s.running = true ∧ s.st.toNat ≠ 0) ∧ t.batch = none ∧
      KeepsAllBut [.tone, .batch] s t

/-- What can change a timer in one step: the start of a tick, by one down; FX15 or FX18, to a register's value; `reset` or a
successful `load`, to 0. Nothing else, so no timer wraps or counts up by itself (R26, R27, R109; D25, D26; that reset and
load clear them: R123, R124, D22, D23; when each may act: log 4). -/
def Obligations.TimersChangeOnlyByTickLoadOrWrite : Prop :=
  ∀ s t : State, step s = .next t →
    (t.dt ≠ s.dt →
      (∃ w rest, s.inputs = ⟨w, .tick⟩ :: rest ∧ t.dt.toNat + 1 = s.dt.toNat ∧ s.running = true ∧ s.batch = none) ∨
      (∃ w rest, (s.inputs = ⟨w, .reset⟩ :: rest ∨ ∃ p, s.inputs = ⟨w, .load p⟩ :: rest) ∧ t.dt = 0 ∧ s.batch = none) ∨
      (∃ op x, s.fetch = some op ∧ decodeWord op = .ok (.ldDtVx x) ∧ t.dt = s.getV x ∧ s.running = true)) ∧
    (t.st ≠ s.st →
      (∃ w rest, s.inputs = ⟨w, .tick⟩ :: rest ∧ t.st.toNat + 1 = s.st.toNat ∧ s.running = true ∧ s.batch = none) ∨
      (∃ w rest, (s.inputs = ⟨w, .reset⟩ :: rest ∨ ∃ p, s.inputs = ⟨w, .load p⟩ :: rest) ∧ t.st = 0 ∧ s.batch = none) ∨
      (∃ op x, s.fetch = some op ∧ decodeWord op = .ok (.ldStVx x) ∧ t.st = s.getV x ∧ s.running = true))

/-! ### The host interface (60_exceptions.md R116 to R118, 70_reset_and_hazards.md) -/

/-- `start` and `stop` (R117; D24): what each sets, that each leaves everything else alone and does nothing the second time. -/
def Obligations.StartAndStop : Prop :=
  ∀ s : State,
    (s.running = true → s.startRun = s) ∧
    (s.running = false → s.startRun.pc.toNat = 0x200 ∧ s.startRun.err = none ∧ s.startRun.running = true ∧
      KeepsAllBut [.pc, .err, .running] s s.startRun) ∧
    (s.running = false → s.stopRun = s) ∧
    (s.running = true → s.stopRun.running = false ∧ s.stopRun.tone = false ∧
      KeepsAllBut [.running, .tone] s s.stopRun) ∧
    s.startRun.startRun = s.startRun ∧ s.stopRun.stopRun = s.stopRun

/-- `reset()` (R33, R123; pc, I, run state and keypad: D22): every value, and the keypad, the parameters and the host's lists
left alone (the last is log 4 and log 9). -/
def Obligations.ResetGivesTheResetValues : Prop :=
  ∀ s : State,
    (∀ x : Reg, s.resetBlock.getV x = 0) ∧ s.resetBlock.i = 0 ∧ s.resetBlock.pc.toNat = 0x200 ∧
    s.resetBlock.sp.val = 0 ∧ (∀ k : Fin 16, s.resetBlock.stack[k.val] = 0) ∧ s.resetBlock.dt = 0 ∧
    s.resetBlock.st = 0 ∧ (∀ x y, s.resetBlock.disp.cell x y = false) ∧ s.resetBlock.running = false ∧
    s.resetBlock.err = none ∧ s.resetBlock.tone = false ∧
    (∀ a : Addr, s.resetBlock.memRead a = if h : a.toNat < 80 then s.cfg.font[a.toNat] else 0) ∧
    KeepsOutside (fun p => p ∉ [.cfg, .inputs, .outputs, .draws] ∧ ∀ k, p ≠ .key k) s s.resetBlock

/-- The state at power-on is a state after `reset()` (R33, R125; D22). It holds the spec's default parameters (R10; that the
state after reset has them is the model's choice, log 1) and the default font, all 16 glyphs of 5 bytes, with zero after them
(R45; D19). -/
def Obligations.PowerOnIsReset : Prop :=
  State.reset.resetBlock = State.reset ∧ State.reset.cfg.pcSeqWrap = false ∧ State.reset.cfg.bnnnRefOffset = false ∧
  State.reset.cfg.rndMode = .halfOpen ∧ State.reset.cfg.shiftSrc = .vx ∧ State.reset.cfg.fx0aMode = .repoll ∧
  State.reset.glyph 0x0 = [0xF0, 0x90, 0x90, 0x90, 0xF0] ∧ State.reset.glyph 0x1 = [0x20, 0x60, 0x20, 0x20, 0x70] ∧
  State.reset.glyph 0x2 = [0xF0, 0x10, 0xF0, 0x80, 0xF0] ∧ State.reset.glyph 0x3 = [0xF0, 0x10, 0xF0, 0x10, 0xF0] ∧
  State.reset.glyph 0x4 = [0x90, 0x90, 0xF0, 0x10, 0x10] ∧ State.reset.glyph 0x5 = [0xF0, 0x80, 0xF0, 0x10, 0xF0] ∧
  State.reset.glyph 0x6 = [0xF0, 0x80, 0xF0, 0x90, 0xF0] ∧ State.reset.glyph 0x7 = [0xF0, 0x10, 0x20, 0x40, 0x40] ∧
  State.reset.glyph 0x8 = [0xF0, 0x90, 0xF0, 0x90, 0xF0] ∧ State.reset.glyph 0x9 = [0xF0, 0x90, 0xF0, 0x10, 0xF0] ∧
  State.reset.glyph 0xA = [0xF0, 0x90, 0xF0, 0x90, 0x90] ∧ State.reset.glyph 0xB = [0xE0, 0x90, 0xE0, 0x90, 0xE0] ∧
  State.reset.glyph 0xC = [0xF0, 0x80, 0x80, 0x80, 0xF0] ∧ State.reset.glyph 0xD = [0xE0, 0x90, 0x90, 0x90, 0xE0] ∧
  State.reset.glyph 0xE = [0xF0, 0x80, 0xF0, 0x80, 0xF0] ∧ State.reset.glyph 0xF = [0xF0, 0x80, 0xF0, 0x80, 0x80] ∧
  ∀ a : Addr, 80 ≤ a.toNat → State.reset.memRead a = 0

/-- A program fits exactly when it has at most 3584 bytes (R43), and a load fails exactly when it does not fit (R43, R124; D23).
That the failure shows as `programTooLarge`, newest first in `outputs`, is the model's choice (log 9). -/
def Obligations.LoadFailsExactlyWhenTooLong : Prop :=
  ∀ (s : State) (p : List Byte),
    (0x200 + p.length ≤ 4096 ↔ p.length ≤ 3584) ∧
    (.programTooLarge :: s.outputs = (s.loadProgram p).outputs ↔ ¬ 0x200 + p.length ≤ 4096)

/-- `load(program)` (R124; that it resets, and that a failed load changes nothing: D23; the event it sends: log 9): the program's
bytes from 0x200 up, pc at 0x200, and all else as after a reset. -/
def Obligations.LoadCopiesTheProgram : Prop :=
  ∀ (s : State) (p : List Byte),
    (p.length ≤ 3584 →
      (∀ (k : Nat) (h : k < p.length), (s.loadProgram p).memRead (BitVec.ofNat 12 (0x200 + k)) = p[k]) ∧
      (s.loadProgram p).pc.toNat = 0x200 ∧ (s.loadProgram p).running = false ∧
      KeepsOutside (fun q => ∃ k, k < p.length ∧ q = .byte (BitVec.ofNat 12 (0x200 + k))) s.resetBlock (s.loadProgram p)) ∧
    (3584 < p.length → KeepsAllBut [.outputs] s (s.loadProgram p))

/-- `setKey` sets one key; an index outside 0..15 is refused and changes nothing (R118; D27). A key change that is due inside
a tick, between any two cycles, is a step that does this and takes the input, with the batch, pc and all else as they were
(R118, R119; D27; the inputs list is log 4). That a refusal shows as `keyRefused` in `outputs` is the model's choice (log 9). -/
def Obligations.SetKeySetsOneKey : Prop :=
  (∀ (s : State) (pressed : Bool),
    (∀ k : Fin 16, (s.setKeyInput k.val pressed).key[k.val] = pressed ∧
      KeepsAllBut [.key k] s (s.setKeyInput k.val pressed)) ∧
    (∀ k : Nat, 15 < k → (s.setKeyInput k pressed).outputs = .keyRefused :: s.outputs ∧
      KeepsAllBut [.outputs] s (s.setKeyInput k pressed))) ∧
  (∀ (s : State) (n : Nat) (pressed : Bool) (rest : List HostInput), s.batch = some n →
    (∀ k : Fin 16, s.inputs = ⟨0, .setKey k.val pressed⟩ :: rest →
      ∃ t, step s = .next t ∧ t.key[k.val] = pressed ∧ t.inputs = rest ∧ KeepsAllBut [.key k, .inputs] s t) ∧
    (∀ k : Nat, 15 < k → s.inputs = ⟨0, .setKey k pressed⟩ :: rest →
      ∃ t, step s = .next t ∧ t.inputs = rest ∧ t.outputs = .keyRefused :: s.outputs ∧
        KeepsAllBut [.inputs, .outputs] s t))

/-- Between ticks a step performs the oldest operation the host has offered, each of `reset`, `load`, `start`, `stop` and
`setKey`, and takes it from the list (R116 to R119, R123, R124; D2; the list is log 4). What each does is said by
StartAndStop, ResetGivesTheResetValues, LoadCopiesTheProgram and SetKeySetsOneKey; `tick` by TickCountsTimersDownOnce. -/
def Obligations.StepPerformsTheHostOperation : Prop :=
  ∀ (s : State) (w : Nat) (rest : List HostInput), s.batch = none →
    (s.inputs = ⟨w, .reset⟩ :: rest → step s = .next (State.resetBlock { s with inputs := rest })) ∧
    (∀ p, s.inputs = ⟨w, .load p⟩ :: rest → step s = .next (State.loadProgram { s with inputs := rest } p)) ∧
    (s.inputs = ⟨w, .start⟩ :: rest → step s = .next (State.startRun { s with inputs := rest })) ∧
    (s.inputs = ⟨w, .stop⟩ :: rest → step s = .next (State.stopRun { s with inputs := rest })) ∧
    (∀ k pressed, s.inputs = ⟨w, .setKey k pressed⟩ :: rest →
      step s = .next (State.setKeyInput { s with inputs := rest } k pressed))

/-- Only the host writes the keypad, through `setKey` (R29, R118; D22, D27; the inputs list is log 4). That no step changes a
parameter of R10 is the model's choice (log 1). -/
def Obligations.OnlySetKeyChangesTheKeypad : Prop :=
  ∀ s t : State, step s = .next t →
    t.cfg = s.cfg ∧
    ∀ k : Fin 16, t.key[k.val] ≠ s.key[k.val] →
      ∃ w pressed rest, s.inputs = ⟨w, .setKey k.val pressed⟩ :: rest ∧ t.key[k.val] = pressed

/-! ### The invariant -/

/-- The state after reset meets the invariant. -/
def Obligations.InvariantHoldsAtReset : Prop := State.reset.Inv

/-- Every step keeps the invariant: memory stays canonical, pc never passes 0x1002, the tone is on and a tick is in progress
only while running, and a recorded error means a halted run (R20, R30, R31, R108, R111, R117). -/
def Obligations.EveryStepKeepsTheInvariant : Prop :=
  ∀ s t : State, s.Inv → step s = .next t → t.Inv

/-! ### Rules over all instructions -/

/-- Every instruction answers a next state, and unless that is a fatal-error entry it leaves the keypad, the run control, the
tone and the parameters alone (R29, R30, R31, R110; that an error is a next state: log 7). -/
def Obligations.InstructionsLeaveTheRunControlAlone : Prop :=
  ∀ (i : Instr) (s : State), ∃ t, exec i s = .next t ∧
    ((∃ nnn, i = .call nnn ∧ s.sp.val = 16 ∧ t = s.raiseFatal .callStackOverflow (encode i)) ∨
     (i = .ret ∧ s.sp.val = 0 ∧ t = s.raiseFatal .callStackUnderflow (encode i)) ∨
     KeepsOutside (fun p => p ∉ [.running, .err, .tone, .cfg, .batch, .inputs] ∧ ∀ k, p ≠ .key k) s t)

/-- Each part of the state has its writers among the instructions and no others: memory FX33 and FX55 (R36); I ANNN, FX1E and
FX29 (R19); the stack CALL and RET (R23); the display 00E0 and DXYN (R28); DT FX15 and ST FX18 (R26, R27). -/
def Obligations.EachPartHasItsWriters : Prop :=
  ∀ (i : Instr) (s t : State), exec i s = .next t →
    ((∀ x, i ≠ .ldB x ∧ i ≠ .stRegs x) → ∀ a, t.memRead a = s.memRead a) ∧
    ((∀ nnn, i ≠ .ldI nnn) → (∀ x, i ≠ .addI x ∧ i ≠ .ldF x) → t.i = s.i) ∧
    (i ≠ .ret → (∀ nnn, i ≠ .call nnn) → t.sp = s.sp ∧ t.stack = s.stack) ∧
    (i ≠ .cls → (∀ x y n, i ≠ .drw x y n) → t.disp = s.disp) ∧
    ((∀ x, i ≠ .ldDtVx x) → t.dt = s.dt) ∧
    ((∀ x, i ≠ .ldStVx x) → t.st = s.st)

/-- VF changes as a side effect only by the instructions of R25's table, and as a destination only where the instruction names
it (R25; that 8XY1 to 8XY3 leave it alone is D13). -/
def Obligations.OnlyFlagWritersChangeVf : Prop :=
  ∀ (i : Instr) (s t : State), exec i s = .next t → t.getV vf ≠ s.getV vf →
    (∃ x y, i = .addReg x y ∨ i = .sub x y ∨ i = .subn x y ∨ i = .shr x y ∨ i = .shl x y) ∨
    (∃ x y n, i = .drw x y n) ∨ (∃ x, i = .addI x) ∨
    (∃ nn, i = .ldImm vf nn ∨ i = .addImm vf nn ∨ i = .rnd vf nn) ∨
    (∃ y, i = .ldReg vf y ∨ i = .orReg vf y ∨ i = .andReg vf y ∨ i = .xorReg vf y) ∨
    i = .ldVxDt vf ∨ i = .ldVxK vf ∨ i = .ldRegs vf

/-- Entries at index SP and above are not observable: instructions run from two states that differ only there give states that
differ only there (R23). -/
def Obligations.DeadStackEntriesAreUnobservable : Prop :=
  ∀ (i : Instr) (s : State) (stack : Vector Addr 16),
    (∀ k : Fin 16, k.val < s.sp.val → stack[k.val] = s.stack[k.val]) →
    ∃ (t : State) (stack' : Vector Addr 16),
      exec i s = .next t ∧ exec i { s with stack := stack } = .next { t with stack := stack' } ∧
      ∀ k : Fin 16, k.val < t.sp.val → stack'[k.val] = t.stack[k.val]

/-- No instruction reads ST, and none reads the run control or the tone: from states that differ only there, an instruction
gives states that differ only there, or the same state where it overwrites them (R27, R30). -/
def Obligations.HiddenStateIsNeverRead : Prop :=
  (∀ (i : Instr) (s : State) (b : Byte), (∀ x, i ≠ .ldStVx x) →
    ∃ t, exec i s = .next t ∧ exec i { s with st := b } = .next { t with st := b }) ∧
  (∀ (x : Reg) (s : State) (b : Byte), exec (.ldStVx x) { s with st := b } = exec (.ldStVx x) s) ∧
  (∀ (i : Instr) (s : State) (run tone : Bool) (err : Option FatalRecord),
    ∃ t, exec i s = .next t ∧
      (exec i { s with running := run, tone := tone, err := err } = .next t ∨
       exec i { s with running := run, tone := tone, err := err } =
         .next { t with running := run, tone := tone, err := err }))

/-- R22, the table of the next pc after each cycle that does not fail; and pc after reset and start. -/
def Obligations.NextPcTable : Prop :=
  (∀ (i : Instr) (s t : State), exec i s = .next t →
    (i = .ret → 0 < s.sp.val) → ((∃ nnn, i = .call nnn) → s.sp.val < 16) →
    t.pc =
      match i with
      | .seImm x nn => seq s.cfg s.pc (if s.getV x = nn then 4 else 2)
      | .sneImm x nn => seq s.cfg s.pc (if s.getV x ≠ nn then 4 else 2)
      | .seReg x y => seq s.cfg s.pc (if s.getV x = s.getV y then 4 else 2)
      | .sneReg x y => seq s.cfg s.pc (if s.getV x ≠ s.getV y then 4 else 2)
      | .skp x => seq s.cfg s.pc (if s.keyPressed (s.getV x) = true then 4 else 2)
      | .sknp x => seq s.cfg s.pc (if s.keyPressed (s.getV x) = true then 2 else 4)
      | .jp nnn => nnn.toPc
      | .call nnn => nnn.toPc
      | .ret => seq s.cfg (s.stack[s.sp.val - 1]).toPc 2
      | .jpV0 nnn =>
        if s.cfg.bnnnRefOffset = true then seq s.cfg (Addr.toPc (BitVec.ofNat 12 (nnn.toNat + (s.getV 0).toNat))) 2
        else Addr.toPc (BitVec.ofNat 12 (nnn.toNat + (s.getV 0).toNat))
      | .ldVxK _ =>
        match s.cfg.fx0aMode with
        | .repoll => if ∃ k : Fin 16, s.key[k.val] = true then seq s.cfg s.pc 2 else s.pc
        | .literalSkip => seq s.cfg s.pc (if ∃ k : Fin 16, s.key[k.val] = true then 4 else 2)
      | _ => seq s.cfg s.pc 2) ∧
  (∀ s : State, s.resetBlock.pc = 0x200) ∧ (∀ s : State, s.running = false → s.startRun.pc = 0x200)

/-- The sequential successor (R20, R63; D6): no wrap by default, modulo 4096 with `PC_SEQ_WRAP`. -/
def Obligations.SequentialSuccessor : Prop :=
  ∀ (cfg : Config) (a : Pc) (k : Nat), a.toNat ≤ 0xFFF → k ≤ 4 →
    (cfg.pcSeqWrap = false → (seq cfg a k).toNat = a.toNat + k) ∧
    (cfg.pcSeqWrap = true → (seq cfg a k).toNat = (a.toNat + k) % 4096)

/-! ### Control transfer (40_control_flow.md) -/

/-- RET with an entry on the stack (R67; D10 concerns only the empty stack): pops it and resumes two past it. -/
def Obligations.ReturnResumesAfterTheCall : Prop :=
  ∀ (s : State) (k : Fin 16), s.sp.val = k.val + 1 →
    ∃ t, exec .ret s = .next t ∧ t.sp.val = k.val ∧ t.pc = seq s.cfg (s.stack[k.val]).toPc 2 ∧
      KeepsAllBut [.pc, .stackDepth] s t

/-- RET with an empty stack raises CallStackUnderflow (R67, R110; D10). -/
def Obligations.ReturnFromEmptyStackUnderflows : Prop :=
  ∀ s : State, s.sp.val = 0 → exec .ret s = .next (s.raiseFatal .callStackUnderflow 0x00EE)

/-- CALL with room on the stack (R69): pushes its own address, not the one after it, and goes to NNN. -/
def Obligations.CallPushesItsOwnAddress : Prop :=
  ∀ (nnn : Addr) (s : State) (k : Fin 16), s.sp.val = k.val →
    ∃ t, exec (.call nnn) s = .next t ∧ t.sp.val = k.val + 1 ∧ (t.stack[k.val]).toNat = s.pc.toNat % 4096 ∧
      t.pc.toNat = nnn.toNat ∧ KeepsAllBut [.pc, .stackDepth, .stackEntry k] s t

/-- CALL with 16 entries on the stack raises CallStackOverflow with its own opcode (R69, R110; D21). -/
def Obligations.SeventeenthCallOverflows : Prop :=
  ∀ (nnn : Addr) (s : State) (op : Opcode), s.sp.val = 16 → op.toNat = 0x2000 + nnn.toNat →
    exec (.call nnn) s = .next (s.raiseFatal .callStackOverflow op)

/-- CALL then RET resumes at the instruction after the CALL with the depth as before, whatever the subroutine did to everything
but the stack (R24, R67, R69; C6). -/
def Obligations.CallThenReturnComesBack : Prop :=
  ∀ (nnn : Addr) (s t r u : State), s.sp.val < 16 → s.pc.toNat ≤ 0xFFF → exec (.call nnn) s = .next t →
    r.sp = t.sp → r.stack = t.stack → r.cfg = t.cfg → exec .ret r = .next u →
    u.pc = seq s.cfg s.pc 2 ∧ u.sp = s.sp ∧ ∀ k : Fin 16, k.val < s.sp.val → u.stack[k.val] = s.stack[k.val]

/-- JP lands on NNN, odd or not (R68, R64); BNNN lands on (NNN + V0) mod 4096, or two past it with `BNNN_REF_OFFSET`
(R40, R74; D8, D9). -/
def Obligations.JumpsLandOnTheirTargets : Prop :=
  (∀ (nnn : Addr) (s : State), ∃ t, exec (.jp nnn) s = .next t ∧ t.pc.toNat = nnn.toNat ∧ KeepsAllBut [.pc] s t) ∧
  (∀ (nnn : Addr) (s : State), ∃ t, exec (.jpV0 nnn) s = .next t ∧
    (s.cfg.bnnnRefOffset = false → t.pc.toNat = (nnn.toNat + (s.getV 0).toNat) % 4096) ∧
    (s.cfg.bnnnRefOffset = true →
      t.pc = seq s.cfg (Addr.toPc (BitVec.ofNat 12 ((nnn.toNat + (s.getV 0).toNat) % 4096))) 2) ∧
    KeepsAllBut [.pc] s t)

/-- SYS is a no-op that sends a diagnostic with its address and opcode, and is never fatal (R59, R75; the diagnostic's form is
D20, the list `outputs` log 9; for NNN = 0E0 and 0EE there is no such opcode, R56). -/
def Obligations.SysOnlySendsADiagnostic : Prop :=
  ∀ (nnn : Addr) (s : State), ∃ t op, exec (.sys nnn) s = .next t ∧ op.toNat = nnn.toNat ∧
    t.outputs = .diagnostic s.pc op :: s.outputs ∧ t.pc = seq s.cfg s.pc 2 ∧ KeepsAllBut [.pc, .outputs] s t

/-- R65: a skip whose condition is true goes on at seq(a, 4), one whose condition is false at seq(a, 2), and nothing else
happens; a skip does not look at memory, so not at the instruction it skips. When the condition of EX9E and EXA1 is true is
KeySkipsReadOneKey's matter. -/
def Obligations.SkipsAddTwoMore : Prop :=
  (∀ (s : State) (x y : Reg) (nn : Byte), ∃ t1 t2 t3 t4,
    exec (.seImm x nn) s = .next t1 ∧ t1.pc = seq s.cfg s.pc (if s.getV x = nn then 4 else 2) ∧
    exec (.sneImm x nn) s = .next t2 ∧ t2.pc = seq s.cfg s.pc (if s.getV x ≠ nn then 4 else 2) ∧
    exec (.seReg x y) s = .next t3 ∧ t3.pc = seq s.cfg s.pc (if s.getV x = s.getV y then 4 else 2) ∧
    exec (.sneReg x y) s = .next t4 ∧ t4.pc = seq s.cfg s.pc (if s.getV x ≠ s.getV y then 4 else 2) ∧
    KeepsAllBut [.pc] s t1 ∧ KeepsAllBut [.pc] s t2 ∧ KeepsAllBut [.pc] s t3 ∧ KeepsAllBut [.pc] s t4) ∧
  (∀ (s : State) (x : Reg), ∃ t1 t2,
    exec (.skp x) s = .next t1 ∧ t1.pc = seq s.cfg s.pc (if s.keyPressed (s.getV x) = true then 4 else 2) ∧
    exec (.sknp x) s = .next t2 ∧ t2.pc = seq s.cfg s.pc (if s.keyPressed (s.getV x) = false then 4 else 2) ∧
    KeepsAllBut [.pc] s t1 ∧ KeepsAllBut [.pc] s t2) ∧
  (∀ (s : State) (i : Instr) (a : Addr) (b : Byte),
    (∃ x nn y, i = .seImm x nn ∨ i = .sneImm x nn ∨ i = .seReg x y ∨ i = .sneReg x y ∨ i = .skp x ∨ i = .sknp x) →
    ∃ t, exec i s = .next t ∧ exec i (s.memWrite a b) = .next (t.memWrite a b))

/-- EX9E and EXA1 for every register value: above 15 it names no key, which counts as not pressed (R101, R102; D16). -/
def Obligations.KeySkipsReadOneKey : Prop :=
  ∀ (s : State) (x : Reg), ∃ t1 t2, exec (.skp x) s = .next t1 ∧ exec (.sknp x) s = .next t2 ∧
    KeepsAllBut [.pc] s t1 ∧ KeepsAllBut [.pc] s t2 ∧
    ((∃ k : Fin 16, (s.getV x).toNat = k.val ∧ s.key[k.val] = true) →
      t1.pc = seq s.cfg s.pc 4 ∧ t2.pc = seq s.cfg s.pc 2) ∧
    ((¬ ∃ k : Fin 16, (s.getV x).toNat = k.val ∧ s.key[k.val] = true) →
      t1.pc = seq s.cfg s.pc 2 ∧ t2.pc = seq s.cfg s.pc 4)

/-! ### Registers and the ALU (41_register_alu.md) -/

/-- 6XNN, 7XNN and 8XY0: the value, modulo 256 for the sum, and no flag (R78, R79, R80). -/
def Obligations.LoadAddAndCopyRegisters : Prop :=
  ∀ (s : State) (x y : Reg) (nn : Byte), ∃ t1 t2 t3,
    exec (.ldImm x nn) s = .next t1 ∧ t1.getV x = nn ∧
    exec (.addImm x nn) s = .next t2 ∧ (t2.getV x).toNat = ((s.getV x).toNat + nn.toNat) % 256 ∧
    exec (.ldReg x y) s = .next t3 ∧ t3.getV x = s.getV y ∧
    t1.pc = seq s.cfg s.pc 2 ∧ t2.pc = seq s.cfg s.pc 2 ∧ t3.pc = seq s.cfg s.pc 2 ∧
    KeepsAllBut [.reg x, .pc] s t1 ∧ KeepsAllBut [.reg x, .pc] s t2 ∧ KeepsAllBut [.reg x, .pc] s t3

/-- 8XY1, 8XY2 and 8XY3 bit by bit; VF changes only as the destination (R81, R82, R83; D13). -/
def Obligations.BitwiseRegisters : Prop :=
  ∀ (s : State) (x y : Reg), ∃ t1 t2 t3,
    exec (.orReg x y) s = .next t1 ∧ exec (.andReg x y) s = .next t2 ∧ exec (.xorReg x y) s = .next t3 ∧
    (∀ k, (t1.getV x).getLsbD k = ((s.getV x).getLsbD k || (s.getV y).getLsbD k)) ∧
    (∀ k, (t2.getV x).getLsbD k = ((s.getV x).getLsbD k && (s.getV y).getLsbD k)) ∧
    (∀ k, (t3.getV x).getLsbD k = ((s.getV x).getLsbD k ^^ (s.getV y).getLsbD k)) ∧
    t1.pc = seq s.cfg s.pc 2 ∧ t2.pc = seq s.cfg s.pc 2 ∧ t3.pc = seq s.cfg s.pc 2 ∧
    KeepsAllBut [.reg x, .pc] s t1 ∧ KeepsAllBut [.reg x, .pc] s t2 ∧ KeepsAllBut [.reg x, .pc] s t3

/-- 8XY4: the sum modulo 256, and the carry in VF, which also wins when X = F (R84; X = F: R77, D11). -/
def Obligations.AddRegistersWithCarry : Prop :=
  ∀ (s : State) (x y : Reg), ∃ t, exec (.addReg x y) s = .next t ∧
    (x ≠ vf → (t.getV x).toNat = ((s.getV x).toNat + (s.getV y).toNat) % 256) ∧
    (t.getV vf).toNat = (if (s.getV x).toNat + (s.getV y).toNat ≥ 256 then 1 else 0) ∧
    t.pc = seq s.cfg s.pc 2 ∧ KeepsAllBut [.reg x, .reg vf, .pc] s t

/-- 8XY5 and 8XY7: the difference modulo 256, and NOT borrow in VF, which also wins when X = F (R85, R87; X = F: R77, D11). -/
def Obligations.SubtractRegistersWithBorrow : Prop :=
  ∀ (s : State) (x y : Reg), ∃ t1 t2, exec (.sub x y) s = .next t1 ∧ exec (.subn x y) s = .next t2 ∧
    (x ≠ vf → ((t1.getV x).toNat : Int) = (((s.getV x).toNat : Int) - (s.getV y).toNat) % 256) ∧
    (x ≠ vf → ((t2.getV x).toNat : Int) = (((s.getV y).toNat : Int) - (s.getV x).toNat) % 256) ∧
    (t1.getV vf).toNat = (if (s.getV x).toNat < (s.getV y).toNat then 0 else 1) ∧
    (t2.getV vf).toNat = (if (s.getV y).toNat < (s.getV x).toNat then 0 else 1) ∧
    t1.pc = seq s.cfg s.pc 2 ∧ t2.pc = seq s.cfg s.pc 2 ∧
    KeepsAllBut [.reg x, .reg vf, .pc] s t1 ∧ KeepsAllBut [.reg x, .reg vf, .pc] s t2

/-- 8XY6 and 8XYE: the source (V[X], or V[Y] with `SHIFT_SRC` = VY) shifted by one into V[X], which wins when X = F, and the bit
shifted out in VF (R86, R88; source D12, X = F: R77, D11). -/
def Obligations.ShiftRegistersByOne : Prop :=
  ∀ (s : State) (x y : Reg) (v : Nat),
    (s.cfg.shiftSrc = .vx → v = (s.getV x).toNat) → (s.cfg.shiftSrc = .vy → v = (s.getV y).toNat) →
    ∃ t1 t2, exec (.shr x y) s = .next t1 ∧ exec (.shl x y) s = .next t2 ∧
      (t1.getV x).toNat = v / 2 ∧ (t2.getV x).toNat = v * 2 % 256 ∧
      (x ≠ vf → (t1.getV vf).toNat = v % 2) ∧ (x ≠ vf → (t2.getV vf).toNat = v / 128) ∧
      t1.pc = seq s.cfg s.pc 2 ∧ t2.pc = seq s.cfg s.pc 2 ∧
      KeepsAllBut [.reg x, .reg vf, .pc] s t1 ∧ KeepsAllBut [.reg x, .reg vf, .pc] s t2

/-- CXNN puts a value of the range that `RND_MODE` gives into V[X] and takes one draw; which value is not said (R89; range D14;
the draw counter is log 3). -/
def Obligations.RandomValueIsInRange : Prop :=
  ∀ (s : State) (x : Reg) (nn : Byte), ∃ t, exec (.rnd x nn) s = .next t ∧
    (s.cfg.rndMode = .halfOpen → nn.toNat = 0 → (t.getV x).toNat = 0) ∧
    (s.cfg.rndMode = .halfOpen → 0 < nn.toNat → (t.getV x).toNat < nn.toNat) ∧
    (s.cfg.rndMode = .inclusive → (t.getV x).toNat ≤ nn.toNat) ∧
    (s.cfg.rndMode = .andMask → ∀ k, (t.getV x).getLsbD k = true → nn.getLsbD k = true) ∧
    t.draws = s.draws + 1 ∧ t.pc = seq s.cfg s.pc 2 ∧ KeepsAllBut [.reg x, .pc, .draws] s t

/-! ### The index register and memory (42_index_memory.md, 20_memory.md) -/

/-- R35: MemRead returns the byte at an address, MemWrite sets that byte and no other, for every address, and neither fails. -/
def Obligations.MemoryReadsBackWhatWasWritten : Prop :=
  ∀ (s : State) (a : Addr) (b : Byte),
    (s.memWrite a b).memRead a = b ∧ KeepsAllBut [.byte a] s (s.memWrite a b)

/-- ANNN and FX29: I is the address, or five times the register, unmasked as a digit (R90, R92; D18). -/
def Obligations.LoadTheIndexRegister : Prop :=
  ∀ (s : State) (nnn : Addr) (x : Reg), ∃ t1 t2,
    exec (.ldI nnn) s = .next t1 ∧ t1.i = nnn ∧ t1.pc = seq s.cfg s.pc 2 ∧ KeepsAllBut [.index, .pc] s t1 ∧
    exec (.ldF x) s = .next t2 ∧ t2.i.toNat = 5 * (s.getV x).toNat ∧ t2.pc = seq s.cfg s.pc 2 ∧
    KeepsAllBut [.index, .pc] s t2

/-- FX1E: I gets the sum modulo 4096 and VF says whether it exceeded 0xFFF; with X = F the old VF is added (R91; D11). -/
def Obligations.AddToTheIndexRegister : Prop :=
  ∀ (s : State) (x : Reg), ∃ t, exec (.addI x) s = .next t ∧
    t.i.toNat = (s.i.toNat + (s.getV x).toNat) % 4096 ∧
    (t.getV vf).toNat = (if s.i.toNat + (s.getV x).toNat > 0xFFF then 1 else 0) ∧
    t.pc = seq s.cfg s.pc 2 ∧ KeepsAllBut [.reg vf, .index, .pc] s t

/-- FX33: the three decimal digits of V[X] at I, I + 1 and I + 2 modulo 4096, and no other byte changes (R93; the wrap: R40, D8). -/
def Obligations.StoreDecimalDigits : Prop :=
  ∀ (s : State) (x : Reg), ∃ t, exec (.ldB x) s = .next t ∧
    (t.memRead (BitVec.ofNat 12 s.i.toNat)).toNat = (s.getV x).toNat / 100 ∧
    (t.memRead (BitVec.ofNat 12 (s.i.toNat + 1))).toNat = (s.getV x).toNat / 10 % 10 ∧
    (t.memRead (BitVec.ofNat 12 (s.i.toNat + 2))).toNat = (s.getV x).toNat % 10 ∧
    s.ea 0 = BitVec.ofNat 12 s.i.toNat ∧ s.ea 1 = BitVec.ofNat 12 (s.i.toNat + 1) ∧
    s.ea 2 = BitVec.ofNat 12 (s.i.toNat + 2) ∧
    t.pc = seq s.cfg s.pc 2 ∧ KeepsAllBut [.byte (s.ea 0), .byte (s.ea 1), .byte (s.ea 2), .pc] s t

/-- FX55: V0 to V[X] from address I up, modulo 4096; I and every other byte stay (R94; the wrap: R40, D8). -/
def Obligations.StoreRegisterRange : Prop :=
  ∀ (s : State) (x : Reg), ∃ t, exec (.stRegs x) s = .next t ∧
    (∀ k : Reg, k ≤ x → t.memRead (BitVec.ofNat 12 (s.i.toNat + k.val)) = s.getV k ∧
      s.ea k.val = BitVec.ofNat 12 (s.i.toNat + k.val)) ∧
    t.pc = seq s.cfg s.pc 2 ∧ KeepsOutside (fun p => p = .pc ∨ ∃ k : Reg, k ≤ x ∧ p = .byte (s.ea k.val)) s t

/-- FX65: V0 to V[X] from the bytes at address I up, modulo 4096; I, the other registers and all of memory stay (R95; the wrap:
R40, D8). -/
def Obligations.LoadRegisterRange : Prop :=
  ∀ (s : State) (x : Reg), ∃ t, exec (.ldRegs x) s = .next t ∧
    (∀ k : Reg, k ≤ x → t.getV k = s.memRead (BitVec.ofNat 12 (s.i.toNat + k.val))) ∧
    t.pc = seq s.cfg s.pc 2 ∧ KeepsOutside (fun p => p = .pc ∨ ∃ k : Reg, k ≤ x ∧ p = .reg k) s t

/-- A store is seen by the very next fetch, whatever lay there (R50, R127; D28): a word placed where a run fetches next is the
instruction the next step runs (the placing is log 6). -/
def Obligations.PlacedWordRunsNext : Prop :=
  (∀ (s : State) (op : Opcode), s.pc.toNat ≤ 0xFFE →
    ((s.memWrite (BitVec.ofNat 12 s.pc.toNat) (highByte op)).memWrite
      (BitVec.ofNat 12 (s.pc.toNat + 1)) (lowByte op)).fetch = some op) ∧
  (∀ (s : State) (i : Instr), i.wellFormed = true →
    step (s.withFetchWord 16 (encode i).toNat) = exec i (s.withFetchWord 16 (encode i).toNat).beginCycle)

/-! ### The display (43_display.md) -/

/-- R96: Toggle flips its cell, leaves every other cell alone, and answers whether the cell went from set to unset. -/
def Obligations.ToggleFlipsOneCell : Prop :=
  ∀ (d : Display) (x : Fin 64) (y : Fin 32),
    (d.toggle x y).1.cell x y = !d.cell x y ∧
    (∀ x' y', (x', y') ≠ (x, y) → (d.toggle x y).1.cell x' y' = d.cell x' y') ∧
    ((d.toggle x y).2 = true ↔ d.cell x y = true ∧ (d.toggle x y).1.cell x y = false)

/-- R97: Clear sets every cell to 0, and CLS and the block reset both use it. -/
def Obligations.ClearSetsEveryCellToZero : Prop :=
  (∀ x y, Display.clear.cell x y = false) ∧
  (∀ s : State, ∃ t, exec .cls s = .next t ∧ t.disp = Display.clear) ∧
  (∀ s : State, s.resetBlock.disp = Display.clear)

/-- R98: CLS, whose pattern 00E0 the source gives, clears the display, advances, and leaves VF and all else alone. -/
def Obligations.ClsClearsTheDisplay : Prop :=
  (∀ op : Opcode, decodeWord op = .ok .cls ↔ op &&& 0xFFFF = 0x00E0) ∧
  (∀ s : State, ∃ t, exec .cls s = .next t ∧ (∀ x y, t.disp.cell x y = false) ∧ t.pc = seq s.cfg s.pc 2 ∧
    KeepsOutside (fun p => p = .pc ∨ ∃ x y, p = .cell x y) s t)

/-- DXYN (R99; bit order, origin and N = 0: D15; X or Y = F: D11): the loops over rows and columns flip exactly the cells under
the sprite's 1 bits, wrapped on both axes, and VF says whether one of them was set. -/
def Obligations.DrawXorsTheSprite : Prop :=
  ∀ (s : State) (x y : Reg) (n : Fin 16), ∃ t, exec (.drw x y n) s = .next t ∧
    (∀ cx cy, s.SpriteCovers (s.getV x) (s.getV y) n.val cx cy → t.disp.cell cx cy = !s.disp.cell cx cy) ∧
    ((t.getV vf = 1 ∧ ∃ cx cy, s.SpriteCovers (s.getV x) (s.getV y) n.val cx cy ∧ s.disp.cell cx cy = true) ∨
     (t.getV vf = 0 ∧ ∀ cx cy, s.SpriteCovers (s.getV x) (s.getV y) n.val cx cy → s.disp.cell cx cy = false)) ∧
    t.pc = seq s.cfg s.pc 2 ∧
    KeepsOutside (fun p => p = .pc ∨ p = .reg vf ∨
      ∃ cx cy, p = .cell cx cy ∧ s.SpriteCovers (s.getV x) (s.getV y) n.val cx cy) s t

/-- Drawing the same sprite twice at the same place restores the display, and the second collision flag is 1 exactly when some
cell under a 1 bit was unset before the first draw (R100, derived there from R96 and R99; C1; D15). -/
def Obligations.DrawingTwiceRestoresTheDisplay : Prop :=
  ∀ (s t r u : State) (x y : Reg) (n : Fin 16), exec (.drw x y n) s = .next t →
    r.disp = t.disp → r.i = s.i → (∀ a, r.memRead a = s.memRead a) → r.getV x = s.getV x → r.getV y = s.getV y →
    exec (.drw x y n) r = .next u →
    u.disp = s.disp ∧
    (t.getV vf = 1 ↔ ∃ cx cy, s.SpriteCovers (s.getV x) (s.getV y) n.val cx cy ∧ s.disp.cell cx cy = true) ∧
    (u.getV vf = 1 ↔ ∃ cx cy, s.SpriteCovers (s.getV x) (s.getV y) n.val cx cy ∧ s.disp.cell cx cy = false)

/-! ### The keypad and the timers (44_keypad_timers.md) -/

/-- FX07, FX15 and FX18 move a timer to or from a register (R103, R105, R106). -/
def Obligations.TimerRegisterMoves : Prop :=
  ∀ (s : State) (x : Reg), ∃ t1 t2 t3,
    exec (.ldVxDt x) s = .next t1 ∧ t1.getV x = s.dt ∧ t1.pc = seq s.cfg s.pc 2 ∧ KeepsAllBut [.reg x, .pc] s t1 ∧
    exec (.ldDtVx x) s = .next t2 ∧ t2.dt = s.getV x ∧ t2.pc = seq s.cfg s.pc 2 ∧ KeepsAllBut [.delay, .pc] s t2 ∧
    exec (.ldStVx x) s = .next t3 ∧ t3.st = s.getV x ∧ t3.pc = seq s.cfg s.pc 2 ∧ KeepsAllBut [.sound, .pc] s t3

/-- FX0A polls once: the lowest pressed key goes to V[X]; with none pressed nothing but pc changes, and with `repoll` not even
pc (R104; both modes, the lowest key: D17, C4). -/
def Obligations.KeyWaitPollsOnce : Prop :=
  (∀ (s : State) (x : Reg) (k : Fin 16), s.key[k.val] = true → (∀ j : Fin 16, j < k → s.key[j.val] = false) →
    ∃ t, exec (.ldVxK x) s = .next t ∧ (t.getV x).toNat = k.val ∧
      t.pc = seq s.cfg s.pc (if s.cfg.fx0aMode = .repoll then 2 else 4) ∧ KeepsAllBut [.reg x, .pc] s t) ∧
  (∀ (s : State) (x : Reg), (∀ j : Fin 16, s.key[j.val] = false) →
    (s.cfg.fx0aMode = .repoll → exec (.ldVxK x) s = .next s) ∧
    (s.cfg.fx0aMode = .literalSkip →
      ∃ t, exec (.ldVxK x) s = .next t ∧ t.pc = seq s.cfg s.pc 2 ∧ KeepsAllBut [.pc] s t))
end

