-- ==== Sys2Proof/Laws/Decode.lean ====
section
/-! SUPPORT. The fields of an opcode built from its formats, and when an opcode built from nibbles matches a mask
(30_encoding.md R53, R54, R56). -/
namespace Sys2Proof

/-- Every opcode is built from its class, its two register fields and its low nibble. -/
theorem opcode_eq_formFXY (op : Opcode) :
    op = formFXY (op.extractLsb' 12 4) (fieldX op) (fieldY op) (fieldN op) := by
  apply BitVec.eq_of_getLsbD_eq
  intro k hk
  simp only [formFXY, fieldX, fieldY, fieldN, nibbleAt, BitVec.getLsbD_append, BitVec.ofFin_toFin,
    BitVec.getLsbD_extractLsb']
  by_cases h1 : k < 4
  · simp [h1]
  · by_cases h2 : k - 4 < 4
    · simp [h1, h2, show 4 + (k - 4) = k by omega]
    · by_cases h3 : k - 4 - 4 < 4
      · simp [h1, h2, h3, show 8 + (k - 4 - 4) = k by omega]
      · simp [h1, h2, h3, show 12 + (k - 4 - 4 - 4) = k by omega, show k - 4 - 4 - 4 < 4 by omega]

/-- The number an opcode of format `FXY` is. -/
theorem formFXY_toNat (h : BitVec 4) (x y : Reg) (n : Fin 16) :
    (formFXY h x y n).toNat = h.toNat * 4096 + x.val * 256 + y.val * 16 + n.val := by
  have hx : x.val < 2 ^ 4 := x.isLt
  have hy : y.val < 2 ^ 4 := y.isLt
  have hn : n.val < 2 ^ 4 := n.isLt
  simp only [formFXY, BitVec.toNat_append, BitVec.toNat_ofFin]
  rw [← Nat.shiftLeft_add_eq_or_of_lt hn, ← Nat.shiftLeft_add_eq_or_of_lt hy, ← Nat.shiftLeft_add_eq_or_of_lt hx]
  simp only [Nat.shiftLeft_eq]; omega

/-- The number an opcode of format `FXK` is. -/
theorem formFXK_toNat (h : BitVec 4) (x : Reg) (nn : Byte) :
    (formFXK h x nn).toNat = h.toNat * 4096 + x.val * 256 + nn.toNat := by
  have hx : x.val < 2 ^ 4 := x.isLt
  have hn := nn.isLt
  simp only [formFXK, BitVec.toNat_append, BitVec.toNat_ofFin]
  rw [← Nat.shiftLeft_add_eq_or_of_lt hn, ← Nat.shiftLeft_add_eq_or_of_lt hx]
  simp only [Nat.shiftLeft_eq]; omega

/-- The number an opcode of format `FA` is. -/
theorem formFA_toNat (h : BitVec 4) (nnn : Addr) : (formFA h nnn).toNat = h.toNat * 4096 + nnn.toNat := by
  have hn := nnn.isLt
  simp only [formFA, BitVec.toNat_append]
  rw [← Nat.shiftLeft_add_eq_or_of_lt hn]
  simp only [Nat.shiftLeft_eq]

/-! ### The fields as numbers -/

theorem fieldX_val (op : Opcode) : (fieldX op).val = op.toNat / 256 % 16 := by
  simp [fieldX, nibbleAt, BitVec.extractLsb', Nat.shiftRight_eq_div_pow]

theorem fieldY_val (op : Opcode) : (fieldY op).val = op.toNat / 16 % 16 := by
  simp [fieldY, nibbleAt, BitVec.extractLsb', Nat.shiftRight_eq_div_pow]

theorem fieldN_val (op : Opcode) : (fieldN op).val = op.toNat % 16 := by
  simp [fieldN, nibbleAt, BitVec.extractLsb']

theorem fieldNN_toNat (op : Opcode) : (fieldNN op).toNat = op.toNat % 256 := by
  simp [fieldNN, BitVec.extractLsb']

theorem fieldNNN_toNat (op : Opcode) : (fieldNNN op).toNat = op.toNat % 4096 := by
  simp [fieldNNN, BitVec.extractLsb']

/-! ### Fields and formats undo each other (R53, R54) -/

theorem fields_formFXY (h : BitVec 4) (x y : Reg) (n : Fin 16) :
    fieldX (formFXY h x y n) = x ∧ fieldY (formFXY h x y n) = y ∧ fieldN (formFXY h x y n) = n ∧
      (formFXY h x y n).toNat / 4096 = h.toNat ∧ (formFXY h x y n).toNat % 16 = n.val := by
  have e := formFXY_toNat h x y n
  have hx := x.isLt
  have hy := y.isLt
  have hn := n.isLt
  refine ⟨Fin.ext ?_, Fin.ext ?_, Fin.ext ?_, ?_, ?_⟩
  · rw [fieldX_val]; omega
  · rw [fieldY_val]; omega
  · rw [fieldN_val]; omega
  · omega
  · omega

theorem fields_formFXK (h : BitVec 4) (x : Reg) (nn : Byte) :
    fieldX (formFXK h x nn) = x ∧ fieldNN (formFXK h x nn) = nn ∧
      (formFXK h x nn).toNat / 4096 = h.toNat ∧ (formFXK h x nn).toNat % 256 = nn.toNat := by
  have e := formFXK_toNat h x nn
  have hx := x.isLt
  have hn := nn.isLt
  refine ⟨Fin.ext ?_, BitVec.eq_of_toNat_eq ?_, ?_, ?_⟩
  · rw [fieldX_val]; omega
  · rw [fieldNN_toNat]; omega
  · omega
  · omega

theorem fields_formFA (h : BitVec 4) (nnn : Addr) :
    fieldNNN (formFA h nnn) = nnn ∧ (formFA h nnn).toNat / 4096 = h.toNat := by
  have e := formFA_toNat h nnn
  have hn := nnn.isLt
  exact ⟨BitVec.eq_of_toNat_eq (by rw [fieldNNN_toNat]; omega), by omega⟩

theorem formFXK_fields {op : Opcode} {h : BitVec 4} {nn : Byte} (h₁ : op.toNat / 4096 = h.toNat)
    (h₂ : op.toNat % 256 = nn.toNat) : formFXK h (fieldX op) nn = op := by
  apply BitVec.eq_of_toNat_eq; rw [formFXK_toNat, fieldX_val]; omega

theorem formFA_fields {op : Opcode} {h : BitVec 4} (h₁ : op.toNat / 4096 = h.toNat) :
    formFA h (fieldNNN op) = op := by
  apply BitVec.eq_of_toNat_eq; rw [formFA_toNat, fieldNNN_toNat]; omega

theorem formFXY_fields {op : Opcode} {h : BitVec 4} {n : Fin 16} (h₁ : op.toNat / 4096 = h.toNat)
    (h₂ : op.toNat % 16 = n.val) : formFXY h (fieldX op) (fieldY op) n = op := by
  apply BitVec.eq_of_toNat_eq; rw [formFXY_toNat, fieldX_val, fieldY_val]; omega

/-! ### The masks of R56 as numbers -/

/-- The class nibble, which every mask of R56 keeps. -/
theorem class_toNat (op : Opcode) : (op.extractLsb' 12 4).toNat = op.toNat / 4096 := by
  have h := op.isLt
  simp [BitVec.extractLsb', Nat.shiftRight_eq_div_pow]; omega

theorem and_mask_F000 (op : Opcode) : (op &&& 0xF000#16).toNat = op.toNat / 4096 * 4096 := by
  have e : op &&& 0xF000#16 = formFA (op.extractLsb' 12 4) 0 := by
    apply BitVec.eq_of_getLsbD_eq
    intro k hk
    simp only [formFA, BitVec.getLsbD_and, BitVec.getLsbD_append,
      BitVec.getLsbD_extractLsb']
    interval_cases k <;> simp
  rw [e, formFA_toNat, class_toNat]; simp

theorem and_mask_F00F (op : Opcode) : (op &&& 0xF00F#16).toNat = op.toNat / 4096 * 4096 + op.toNat % 16 := by
  have e : op &&& 0xF00F#16 = formFXY (op.extractLsb' 12 4) 0 0 (fieldN op) := by
    apply BitVec.eq_of_getLsbD_eq
    intro k hk
    simp only [formFXY, fieldN, nibbleAt, BitVec.ofFin_toFin, BitVec.getLsbD_and, BitVec.getLsbD_append,
      BitVec.getLsbD_extractLsb']
    interval_cases k <;> simp
  rw [e, formFXY_toNat, class_toNat]; simp [fieldN_val]

theorem and_mask_F0FF (op : Opcode) : (op &&& 0xF0FF#16).toNat = op.toNat / 4096 * 4096 + op.toNat % 256 := by
  have e : op &&& 0xF0FF#16 = formFXK (op.extractLsb' 12 4) 0 (fieldNN op) := by
    apply BitVec.eq_of_getLsbD_eq
    intro k hk
    simp only [formFXK, fieldNN, BitVec.getLsbD_and, BitVec.getLsbD_append,
      BitVec.getLsbD_extractLsb']
    interval_cases k <;> simp
  rw [e, formFXK_toNat, class_toNat]; simp [fieldNN_toNat]

theorem and_mask_FFFF (op : Opcode) : op &&& 0xFFFF#16 = op := by
  apply BitVec.eq_of_getLsbD_eq; intro k hk
  interval_cases k <;> simp

/-! ### What the decoder gives, read off the number an opcode is: the opcode map of R57, one lemma a class -/

/-- The table's test with each mask, as a test on numbers. -/
theorem accepts_FFFF (op v : Opcode) : (op &&& 0xFFFF#16 == v) = decide (op.toNat = v.toNat) := by
  rw [and_mask_FFFF]; simp [BitVec.toNat_eq, beq_eq_decide]

theorem accepts_F000 (op v : Opcode) :
    (op &&& 0xF000#16 == v) = decide (op.toNat / 4096 = v.toNat / 4096 ∧ 0 = v.toNat % 4096) := by
  rw [beq_eq_decide, decide_eq_decide, BitVec.toNat_eq, and_mask_F000]; omega

theorem accepts_F00F (op v : Opcode) :
    (op &&& 0xF00F#16 == v) = decide (op.toNat / 4096 = v.toNat / 4096 ∧ op.toNat % 16 = v.toNat % 4096) := by
  rw [beq_eq_decide, decide_eq_decide, BitVec.toNat_eq, and_mask_F00F]; omega

theorem accepts_F0FF (op v : Opcode) :
    (op &&& 0xF0FF#16 == v) = decide (op.toNat / 4096 = v.toNat / 4096 ∧ op.toNat % 256 = v.toNat % 4096) := by
  rw [beq_eq_decide, decide_eq_decide, BitVec.toNat_eq, and_mask_F0FF]; omega

theorem decodeWord_class0 {op : Opcode} (h : op.toNat / 4096 = 0) :
    decodeWord op =
      if op.toNat = 0xE0 then .ok .cls else if op.toNat = 0xEE then .ok .ret else .ok (.sys (fieldNNN op)) := by
  simp only [decodeWord, decodeTable, decodeRowsControl, List.cons_append, List.find?_cons, DecodeRow.accepts,
    accepts_FFFF, accepts_F000, h, BitVec.toNat_ofNat, Nat.reduceMod, Nat.reducePow, Nat.reduceDiv]
  by_cases e1 : op.toNat = 0xE0
  · simp [e1]
  · by_cases e2 : op.toNat = 0xEE <;> simp [e1, e2]

theorem decodeWord_class1 {op : Opcode} (h : op.toNat / 4096 = 1) :
    decodeWord op = .ok (.jp (fieldNNN op)) := by
  have e1 : op.toNat ≠ 0xE0 := by omega
  have e2 : op.toNat ≠ 0xEE := by omega
  simp only [decodeWord, decodeTable, decodeRowsControl, decodeRowsAlu, decodeRowsMiddle, decodeRowsMisc,
    List.cons_append, List.nil_append, List.find?_cons, DecodeRow.accepts, accepts_FFFF, accepts_F000, h, e1, e2,
    BitVec.toNat_ofNat, Nat.reduceMod, Nat.reducePow, Nat.reduceDiv, Nat.reduceEqDiff, false_and, decide_false,
    decide_true, and_self]

theorem decodeWord_class2 {op : Opcode} (h : op.toNat / 4096 = 2) :
    decodeWord op = .ok (.call (fieldNNN op)) := by
  have e1 : op.toNat ≠ 0xE0 := by omega
  have e2 : op.toNat ≠ 0xEE := by omega
  simp only [decodeWord, decodeTable, decodeRowsControl, decodeRowsAlu, decodeRowsMiddle, decodeRowsMisc,
    List.cons_append, List.nil_append, List.find?_cons, DecodeRow.accepts, accepts_FFFF, accepts_F000, h, e1, e2,
    BitVec.toNat_ofNat, Nat.reduceMod, Nat.reducePow, Nat.reduceDiv, Nat.reduceEqDiff, false_and, decide_false,
    decide_true, and_self]

theorem decodeWord_class3 {op : Opcode} (h : op.toNat / 4096 = 3) :
    decodeWord op = .ok (.seImm (fieldX op) (fieldNN op)) := by
  have e1 : op.toNat ≠ 0xE0 := by omega
  have e2 : op.toNat ≠ 0xEE := by omega
  simp only [decodeWord, decodeTable, decodeRowsControl, decodeRowsAlu, decodeRowsMiddle, decodeRowsMisc,
    List.cons_append, List.nil_append, List.find?_cons, DecodeRow.accepts, accepts_FFFF, accepts_F000, h, e1, e2,
    BitVec.toNat_ofNat, Nat.reduceMod, Nat.reducePow, Nat.reduceDiv, Nat.reduceEqDiff, false_and, decide_false,
    decide_true, and_self]

theorem decodeWord_class4 {op : Opcode} (h : op.toNat / 4096 = 4) :
    decodeWord op = .ok (.sneImm (fieldX op) (fieldNN op)) := by
  have e1 : op.toNat ≠ 0xE0 := by omega
  have e2 : op.toNat ≠ 0xEE := by omega
  simp only [decodeWord, decodeTable, decodeRowsControl, decodeRowsAlu, decodeRowsMiddle, decodeRowsMisc,
    List.cons_append, List.nil_append, List.find?_cons, DecodeRow.accepts, accepts_FFFF, accepts_F000, h, e1, e2,
    BitVec.toNat_ofNat, Nat.reduceMod, Nat.reducePow, Nat.reduceDiv, Nat.reduceEqDiff, false_and, decide_false,
    decide_true, and_self]

theorem decodeWord_class5 {op : Opcode} (h : op.toNat / 4096 = 5) :
    decodeWord op = if op.toNat % 16 = 0 then .ok (.seReg (fieldX op) (fieldY op)) else .error (.unknownInstruction op) := by
  have e1 : op.toNat ≠ 0xE0 := by omega
  have e2 : op.toNat ≠ 0xEE := by omega
  simp only [decodeWord, decodeTable, decodeRowsControl, decodeRowsAlu, decodeRowsMiddle, decodeRowsMisc,
    List.cons_append, List.nil_append, List.find?_cons, List.find?_nil, DecodeRow.accepts, accepts_FFFF,
    accepts_F000, accepts_F00F, accepts_F0FF, h, e1, e2, BitVec.toNat_ofNat, Nat.reduceMod, Nat.reducePow,
    Nat.reduceDiv, Nat.reduceEqDiff, false_and, true_and, decide_false]
  by_cases h0 : op.toNat % 16 = 0 <;> simp [h0]

theorem decodeWord_class6 {op : Opcode} (h : op.toNat / 4096 = 6) :
    decodeWord op = .ok (.ldImm (fieldX op) (fieldNN op)) := by
  have e1 : op.toNat ≠ 0xE0 := by omega
  have e2 : op.toNat ≠ 0xEE := by omega
  simp only [decodeWord, decodeTable, decodeRowsControl, decodeRowsAlu, decodeRowsMiddle, decodeRowsMisc,
    List.cons_append, List.nil_append, List.find?_cons, DecodeRow.accepts, accepts_FFFF, accepts_F000, accepts_F00F,
    h, e1, e2, BitVec.toNat_ofNat, Nat.reduceMod, Nat.reducePow, Nat.reduceDiv, Nat.reduceEqDiff, false_and,
    decide_false, decide_true, and_self]

theorem decodeWord_class7 {op : Opcode} (h : op.toNat / 4096 = 7) :
    decodeWord op = .ok (.addImm (fieldX op) (fieldNN op)) := by
  have e1 : op.toNat ≠ 0xE0 := by omega
  have e2 : op.toNat ≠ 0xEE := by omega
  simp only [decodeWord, decodeTable, decodeRowsControl, decodeRowsAlu, decodeRowsMiddle, decodeRowsMisc,
    List.cons_append, List.nil_append, List.find?_cons, DecodeRow.accepts, accepts_FFFF, accepts_F000, accepts_F00F,
    h, e1, e2, BitVec.toNat_ofNat, Nat.reduceMod, Nat.reducePow, Nat.reduceDiv, Nat.reduceEqDiff, false_and,
    decide_false, decide_true, and_self]

theorem decodeWord_class8 {op : Opcode} (h : op.toNat / 4096 = 8) :
    decodeWord op =
      match op.toNat % 16 with
      | 0 => .ok (.ldReg (fieldX op) (fieldY op))
      | 1 => .ok (.orReg (fieldX op) (fieldY op))
      | 2 => .ok (.andReg (fieldX op) (fieldY op))
      | 3 => .ok (.xorReg (fieldX op) (fieldY op))
      | 4 => .ok (.addReg (fieldX op) (fieldY op))
      | 5 => .ok (.sub (fieldX op) (fieldY op))
      | 6 => .ok (.shr (fieldX op) (fieldY op))
      | 7 => .ok (.subn (fieldX op) (fieldY op))
      | 14 => .ok (.shl (fieldX op) (fieldY op))
      | _ => .error (.unknownInstruction op) := by
  have e1 : op.toNat ≠ 0xE0 := by omega
  have e2 : op.toNat ≠ 0xEE := by omega
  simp only [decodeWord, decodeTable, decodeRowsControl, decodeRowsAlu, decodeRowsMiddle, decodeRowsMisc,
    List.cons_append, List.nil_append, List.find?_cons, List.find?_nil, DecodeRow.accepts, accepts_FFFF,
    accepts_F000, accepts_F00F, accepts_F0FF, h, e1, e2, BitVec.toNat_ofNat, Nat.reduceMod, Nat.reducePow,
    Nat.reduceDiv, Nat.reduceEqDiff, false_and, true_and, decide_false]
  have hn : op.toNat % 16 < 16 := by omega
  generalize op.toNat % 16 = n at *
  interval_cases n <;> rfl

theorem decodeWord_class9 {op : Opcode} (h : op.toNat / 4096 = 9) :
    decodeWord op = if op.toNat % 16 = 0 then .ok (.sneReg (fieldX op) (fieldY op)) else .error (.unknownInstruction op) := by
  have e1 : op.toNat ≠ 0xE0 := by omega
  have e2 : op.toNat ≠ 0xEE := by omega
  simp only [decodeWord, decodeTable, decodeRowsControl, decodeRowsAlu, decodeRowsMiddle, decodeRowsMisc,
    List.cons_append, List.nil_append, List.find?_cons, List.find?_nil, DecodeRow.accepts, accepts_FFFF,
    accepts_F000, accepts_F00F, accepts_F0FF, h, e1, e2, BitVec.toNat_ofNat, Nat.reduceMod, Nat.reducePow,
    Nat.reduceDiv, Nat.reduceEqDiff, false_and, true_and, decide_false]
  by_cases h0 : op.toNat % 16 = 0 <;> simp [h0]

theorem decodeWord_class10 {op : Opcode} (h : op.toNat / 4096 = 10) :
    decodeWord op = .ok (.ldI (fieldNNN op)) := by
  have e1 : op.toNat ≠ 0xE0 := by omega
  have e2 : op.toNat ≠ 0xEE := by omega
  simp only [decodeWord, decodeTable, decodeRowsControl, decodeRowsAlu, decodeRowsMiddle, decodeRowsMisc,
    List.cons_append, List.nil_append, List.find?_cons, DecodeRow.accepts, accepts_FFFF, accepts_F000, accepts_F00F,
    h, e1, e2, BitVec.toNat_ofNat, Nat.reduceMod, Nat.reducePow, Nat.reduceDiv, Nat.reduceEqDiff, false_and,
    decide_false, decide_true, and_self]

theorem decodeWord_class11 {op : Opcode} (h : op.toNat / 4096 = 11) :
    decodeWord op = .ok (.jpV0 (fieldNNN op)) := by
  have e1 : op.toNat ≠ 0xE0 := by omega
  have e2 : op.toNat ≠ 0xEE := by omega
  simp only [decodeWord, decodeTable, decodeRowsControl, decodeRowsAlu, decodeRowsMiddle, decodeRowsMisc,
    List.cons_append, List.nil_append, List.find?_cons, DecodeRow.accepts, accepts_FFFF, accepts_F000, accepts_F00F,
    h, e1, e2, BitVec.toNat_ofNat, Nat.reduceMod, Nat.reducePow, Nat.reduceDiv, Nat.reduceEqDiff, false_and,
    decide_false, decide_true, and_self]

theorem decodeWord_class12 {op : Opcode} (h : op.toNat / 4096 = 12) :
    decodeWord op = .ok (.rnd (fieldX op) (fieldNN op)) := by
  have e1 : op.toNat ≠ 0xE0 := by omega
  have e2 : op.toNat ≠ 0xEE := by omega
  simp only [decodeWord, decodeTable, decodeRowsControl, decodeRowsAlu, decodeRowsMiddle, decodeRowsMisc,
    List.cons_append, List.nil_append, List.find?_cons, DecodeRow.accepts, accepts_FFFF, accepts_F000, accepts_F00F,
    h, e1, e2, BitVec.toNat_ofNat, Nat.reduceMod, Nat.reducePow, Nat.reduceDiv, Nat.reduceEqDiff, false_and,
    decide_false, decide_true, and_self]

theorem decodeWord_class13 {op : Opcode} (h : op.toNat / 4096 = 13) :
    decodeWord op = .ok (.drw (fieldX op) (fieldY op) (fieldN op)) := by
  have e1 : op.toNat ≠ 0xE0 := by omega
  have e2 : op.toNat ≠ 0xEE := by omega
  simp only [decodeWord, decodeTable, decodeRowsControl, decodeRowsAlu, decodeRowsMiddle, decodeRowsMisc,
    List.cons_append, List.nil_append, List.find?_cons, DecodeRow.accepts, accepts_FFFF, accepts_F000, accepts_F00F,
    h, e1, e2, BitVec.toNat_ofNat, Nat.reduceMod, Nat.reducePow, Nat.reduceDiv, Nat.reduceEqDiff, false_and,
    decide_false, decide_true, and_self]

theorem decodeWord_class14 {op : Opcode} (h : op.toNat / 4096 = 14) :
    decodeWord op =
      match op.toNat % 256 with
      | 0x9E => .ok (.skp (fieldX op))
      | 0xA1 => .ok (.sknp (fieldX op))
      | _ => .error (.unknownInstruction op) := by
  have e1 : op.toNat ≠ 0xE0 := by omega
  have e2 : op.toNat ≠ 0xEE := by omega
  simp only [decodeWord, decodeTable, decodeRowsControl, decodeRowsAlu, decodeRowsMiddle, decodeRowsMisc,
    List.cons_append, List.nil_append, List.find?_cons, List.find?_nil, DecodeRow.accepts, accepts_FFFF,
    accepts_F000, accepts_F00F, accepts_F0FF, h, e1, e2, BitVec.toNat_ofNat, Nat.reduceMod, Nat.reducePow,
    Nat.reduceDiv, Nat.reduceEqDiff, false_and, true_and, decide_false]
  have hb : op.toNat % 256 < 256 := by omega
  generalize op.toNat % 256 = b at *
  interval_cases b <;> rfl

theorem decodeWord_class15 {op : Opcode} (h : op.toNat / 4096 = 15) :
    decodeWord op =
      match op.toNat % 256 with
      | 0x07 => .ok (.ldVxDt (fieldX op))
      | 0x0A => .ok (.ldVxK (fieldX op))
      | 0x15 => .ok (.ldDtVx (fieldX op))
      | 0x18 => .ok (.ldStVx (fieldX op))
      | 0x1E => .ok (.addI (fieldX op))
      | 0x29 => .ok (.ldF (fieldX op))
      | 0x33 => .ok (.ldB (fieldX op))
      | 0x55 => .ok (.stRegs (fieldX op))
      | 0x65 => .ok (.ldRegs (fieldX op))
      | _ => .error (.unknownInstruction op) := by
  have e1 : op.toNat ≠ 0xE0 := by omega
  have e2 : op.toNat ≠ 0xEE := by omega
  simp only [decodeWord, decodeTable, decodeRowsControl, decodeRowsAlu, decodeRowsMiddle, decodeRowsMisc,
    List.cons_append, List.nil_append, List.find?_cons, List.find?_nil, DecodeRow.accepts, accepts_FFFF,
    accepts_F000, accepts_F00F, accepts_F0FF, h, e1, e2, BitVec.toNat_ofNat, Nat.reduceMod, Nat.reducePow,
    Nat.reduceDiv, Nat.reduceEqDiff, false_and, true_and, decide_false]
  have hb : op.toNat % 256 < 256 := by omega
  generalize op.toNat % 256 = b at *
  interval_cases b <;> rfl

/-- The two bytes of an opcode make it again (R37). -/
@[simp] theorem opcodeOf_bytes (op : Opcode) : opcodeOf (highByte op) (lowByte op) = op := by
  apply BitVec.eq_of_getLsbD_eq; intro k hk
  simp only [opcodeOf, highByte, lowByte, BitVec.getLsbD_append, BitVec.getLsbD_extractLsb']
  by_cases h : k < 8
  · simp [h]
  · simp [h, show 8 + (k - 8) = k by omega, show k - 8 < 8 by omega]

theorem opcodeOf_toNat (hi lo : Byte) : (opcodeOf hi lo).toNat = 256 * hi.toNat + lo.toNat := by
  simp only [opcodeOf, BitVec.toNat_append]
  rw [← Nat.shiftLeft_add_eq_or_of_lt lo.isLt]
  simp only [Nat.shiftLeft_eq]; omega

/-- Decoding the two bytes of an opcode is decoding the opcode (R37, R52). -/
theorem decode_bytes (op : Opcode) (rest : List Byte) :
    decode (highByte op :: lowByte op :: rest) =
      match decodeWord op with
      | .ok i => .ok (i, rest)
      | .error e => .error e := by
  cases h : decodeWord op <;> simp only [decode, opcodeOf_bytes, h]

end Sys2Proof
end

