-- ==== Sys2Proof/Laws/State.lean ====
section
/-! SUPPORT. One lemma for each field of State under each update, true by rfl, so that no proof unfolds an update; and the
same for the two reads that go through accessors (V[x] and MemRead). -/
namespace Sys2Proof.Machine

section
variable (s : State)

/-! `setV` -/
@[simp] theorem setV_v (x : Reg) (b : Byte) : (s.setV x b).v = s.v.set x.val b := rfl
@[simp] theorem setV_i (x : Reg) (b : Byte) : (s.setV x b).i = s.i := rfl
@[simp] theorem setV_pc (x : Reg) (b : Byte) : (s.setV x b).pc = s.pc := rfl
@[simp] theorem setV_stack (x : Reg) (b : Byte) : (s.setV x b).stack = s.stack := rfl
@[simp] theorem setV_sp (x : Reg) (b : Byte) : (s.setV x b).sp = s.sp := rfl
@[simp] theorem setV_dt (x : Reg) (b : Byte) : (s.setV x b).dt = s.dt := rfl
@[simp] theorem setV_st (x : Reg) (b : Byte) : (s.setV x b).st = s.st := rfl
@[simp] theorem setV_mem (x : Reg) (b : Byte) : (s.setV x b).mem = s.mem := rfl
@[simp] theorem setV_disp (x : Reg) (b : Byte) : (s.setV x b).disp = s.disp := rfl
@[simp] theorem setV_key (x : Reg) (b : Byte) : (s.setV x b).key = s.key := rfl
@[simp] theorem setV_running (x : Reg) (b : Byte) : (s.setV x b).running = s.running := rfl
@[simp] theorem setV_err (x : Reg) (b : Byte) : (s.setV x b).err = s.err := rfl
@[simp] theorem setV_tone (x : Reg) (b : Byte) : (s.setV x b).tone = s.tone := rfl
@[simp] theorem setV_cfg (x : Reg) (b : Byte) : (s.setV x b).cfg = s.cfg := rfl
@[simp] theorem setV_batch (x : Reg) (b : Byte) : (s.setV x b).batch = s.batch := rfl
@[simp] theorem setV_inputs (x : Reg) (b : Byte) : (s.setV x b).inputs = s.inputs := rfl
@[simp] theorem setV_outputs (x : Reg) (b : Byte) : (s.setV x b).outputs = s.outputs := rfl
@[simp] theorem setV_draws (x : Reg) (b : Byte) : (s.setV x b).draws = s.draws := rfl
@[simp] theorem setV_memRead (x : Reg) (b : Byte) (q : Addr) : (s.setV x b).memRead q = s.memRead q := rfl

/-! `setI` -/
@[simp] theorem setI_v (a : Addr) : (s.setI a).v = s.v := rfl
@[simp] theorem setI_i (a : Addr) : (s.setI a).i = a := rfl
@[simp] theorem setI_pc (a : Addr) : (s.setI a).pc = s.pc := rfl
@[simp] theorem setI_stack (a : Addr) : (s.setI a).stack = s.stack := rfl
@[simp] theorem setI_sp (a : Addr) : (s.setI a).sp = s.sp := rfl
@[simp] theorem setI_dt (a : Addr) : (s.setI a).dt = s.dt := rfl
@[simp] theorem setI_st (a : Addr) : (s.setI a).st = s.st := rfl
@[simp] theorem setI_mem (a : Addr) : (s.setI a).mem = s.mem := rfl
@[simp] theorem setI_disp (a : Addr) : (s.setI a).disp = s.disp := rfl
@[simp] theorem setI_key (a : Addr) : (s.setI a).key = s.key := rfl
@[simp] theorem setI_running (a : Addr) : (s.setI a).running = s.running := rfl
@[simp] theorem setI_err (a : Addr) : (s.setI a).err = s.err := rfl
@[simp] theorem setI_tone (a : Addr) : (s.setI a).tone = s.tone := rfl
@[simp] theorem setI_cfg (a : Addr) : (s.setI a).cfg = s.cfg := rfl
@[simp] theorem setI_batch (a : Addr) : (s.setI a).batch = s.batch := rfl
@[simp] theorem setI_inputs (a : Addr) : (s.setI a).inputs = s.inputs := rfl
@[simp] theorem setI_outputs (a : Addr) : (s.setI a).outputs = s.outputs := rfl
@[simp] theorem setI_draws (a : Addr) : (s.setI a).draws = s.draws := rfl
@[simp] theorem setI_getV (a : Addr) (r : Reg) : (s.setI a).getV r = s.getV r := rfl
@[simp] theorem setI_memRead (a : Addr) (q : Addr) : (s.setI a).memRead q = s.memRead q := rfl

/-! `setDt` -/
@[simp] theorem setDt_v (b : Byte) : (s.setDt b).v = s.v := rfl
@[simp] theorem setDt_i (b : Byte) : (s.setDt b).i = s.i := rfl
@[simp] theorem setDt_pc (b : Byte) : (s.setDt b).pc = s.pc := rfl
@[simp] theorem setDt_stack (b : Byte) : (s.setDt b).stack = s.stack := rfl
@[simp] theorem setDt_sp (b : Byte) : (s.setDt b).sp = s.sp := rfl
@[simp] theorem setDt_dt (b : Byte) : (s.setDt b).dt = b := rfl
@[simp] theorem setDt_st (b : Byte) : (s.setDt b).st = s.st := rfl
@[simp] theorem setDt_mem (b : Byte) : (s.setDt b).mem = s.mem := rfl
@[simp] theorem setDt_disp (b : Byte) : (s.setDt b).disp = s.disp := rfl
@[simp] theorem setDt_key (b : Byte) : (s.setDt b).key = s.key := rfl
@[simp] theorem setDt_running (b : Byte) : (s.setDt b).running = s.running := rfl
@[simp] theorem setDt_err (b : Byte) : (s.setDt b).err = s.err := rfl
@[simp] theorem setDt_tone (b : Byte) : (s.setDt b).tone = s.tone := rfl
@[simp] theorem setDt_cfg (b : Byte) : (s.setDt b).cfg = s.cfg := rfl
@[simp] theorem setDt_batch (b : Byte) : (s.setDt b).batch = s.batch := rfl
@[simp] theorem setDt_inputs (b : Byte) : (s.setDt b).inputs = s.inputs := rfl
@[simp] theorem setDt_outputs (b : Byte) : (s.setDt b).outputs = s.outputs := rfl
@[simp] theorem setDt_draws (b : Byte) : (s.setDt b).draws = s.draws := rfl
@[simp] theorem setDt_getV (b : Byte) (r : Reg) : (s.setDt b).getV r = s.getV r := rfl
@[simp] theorem setDt_memRead (b : Byte) (q : Addr) : (s.setDt b).memRead q = s.memRead q := rfl

/-! `setSt` -/
@[simp] theorem setSt_v (b : Byte) : (s.setSt b).v = s.v := rfl
@[simp] theorem setSt_i (b : Byte) : (s.setSt b).i = s.i := rfl
@[simp] theorem setSt_pc (b : Byte) : (s.setSt b).pc = s.pc := rfl
@[simp] theorem setSt_stack (b : Byte) : (s.setSt b).stack = s.stack := rfl
@[simp] theorem setSt_sp (b : Byte) : (s.setSt b).sp = s.sp := rfl
@[simp] theorem setSt_dt (b : Byte) : (s.setSt b).dt = s.dt := rfl
@[simp] theorem setSt_st (b : Byte) : (s.setSt b).st = b := rfl
@[simp] theorem setSt_mem (b : Byte) : (s.setSt b).mem = s.mem := rfl
@[simp] theorem setSt_disp (b : Byte) : (s.setSt b).disp = s.disp := rfl
@[simp] theorem setSt_key (b : Byte) : (s.setSt b).key = s.key := rfl
@[simp] theorem setSt_running (b : Byte) : (s.setSt b).running = s.running := rfl
@[simp] theorem setSt_err (b : Byte) : (s.setSt b).err = s.err := rfl
@[simp] theorem setSt_tone (b : Byte) : (s.setSt b).tone = s.tone := rfl
@[simp] theorem setSt_cfg (b : Byte) : (s.setSt b).cfg = s.cfg := rfl
@[simp] theorem setSt_batch (b : Byte) : (s.setSt b).batch = s.batch := rfl
@[simp] theorem setSt_inputs (b : Byte) : (s.setSt b).inputs = s.inputs := rfl
@[simp] theorem setSt_outputs (b : Byte) : (s.setSt b).outputs = s.outputs := rfl
@[simp] theorem setSt_draws (b : Byte) : (s.setSt b).draws = s.draws := rfl
@[simp] theorem setSt_getV (b : Byte) (r : Reg) : (s.setSt b).getV r = s.getV r := rfl
@[simp] theorem setSt_memRead (b : Byte) (q : Addr) : (s.setSt b).memRead q = s.memRead q := rfl

/-! `setPc` -/
@[simp] theorem setPc_v (p : Pc) : (s.setPc p).v = s.v := rfl
@[simp] theorem setPc_i (p : Pc) : (s.setPc p).i = s.i := rfl
@[simp] theorem setPc_pc (p : Pc) : (s.setPc p).pc = p := rfl
@[simp] theorem setPc_stack (p : Pc) : (s.setPc p).stack = s.stack := rfl
@[simp] theorem setPc_sp (p : Pc) : (s.setPc p).sp = s.sp := rfl
@[simp] theorem setPc_dt (p : Pc) : (s.setPc p).dt = s.dt := rfl
@[simp] theorem setPc_st (p : Pc) : (s.setPc p).st = s.st := rfl
@[simp] theorem setPc_mem (p : Pc) : (s.setPc p).mem = s.mem := rfl
@[simp] theorem setPc_disp (p : Pc) : (s.setPc p).disp = s.disp := rfl
@[simp] theorem setPc_key (p : Pc) : (s.setPc p).key = s.key := rfl
@[simp] theorem setPc_running (p : Pc) : (s.setPc p).running = s.running := rfl
@[simp] theorem setPc_err (p : Pc) : (s.setPc p).err = s.err := rfl
@[simp] theorem setPc_tone (p : Pc) : (s.setPc p).tone = s.tone := rfl
@[simp] theorem setPc_cfg (p : Pc) : (s.setPc p).cfg = s.cfg := rfl
@[simp] theorem setPc_batch (p : Pc) : (s.setPc p).batch = s.batch := rfl
@[simp] theorem setPc_inputs (p : Pc) : (s.setPc p).inputs = s.inputs := rfl
@[simp] theorem setPc_outputs (p : Pc) : (s.setPc p).outputs = s.outputs := rfl
@[simp] theorem setPc_draws (p : Pc) : (s.setPc p).draws = s.draws := rfl
@[simp] theorem setPc_getV (p : Pc) (r : Reg) : (s.setPc p).getV r = s.getV r := rfl
@[simp] theorem setPc_memRead (p : Pc) (q : Addr) : (s.setPc p).memRead q = s.memRead q := rfl

/-! `advance` -/
@[simp] theorem advance_v (k : Nat) : (s.advance k).v = s.v := rfl
@[simp] theorem advance_i (k : Nat) : (s.advance k).i = s.i := rfl
@[simp] theorem advance_pc (k : Nat) : (s.advance k).pc = seq s.cfg s.pc k := rfl
@[simp] theorem advance_stack (k : Nat) : (s.advance k).stack = s.stack := rfl
@[simp] theorem advance_sp (k : Nat) : (s.advance k).sp = s.sp := rfl
@[simp] theorem advance_dt (k : Nat) : (s.advance k).dt = s.dt := rfl
@[simp] theorem advance_st (k : Nat) : (s.advance k).st = s.st := rfl
@[simp] theorem advance_mem (k : Nat) : (s.advance k).mem = s.mem := rfl
@[simp] theorem advance_disp (k : Nat) : (s.advance k).disp = s.disp := rfl
@[simp] theorem advance_key (k : Nat) : (s.advance k).key = s.key := rfl
@[simp] theorem advance_running (k : Nat) : (s.advance k).running = s.running := rfl
@[simp] theorem advance_err (k : Nat) : (s.advance k).err = s.err := rfl
@[simp] theorem advance_tone (k : Nat) : (s.advance k).tone = s.tone := rfl
@[simp] theorem advance_cfg (k : Nat) : (s.advance k).cfg = s.cfg := rfl
@[simp] theorem advance_batch (k : Nat) : (s.advance k).batch = s.batch := rfl
@[simp] theorem advance_inputs (k : Nat) : (s.advance k).inputs = s.inputs := rfl
@[simp] theorem advance_outputs (k : Nat) : (s.advance k).outputs = s.outputs := rfl
@[simp] theorem advance_draws (k : Nat) : (s.advance k).draws = s.draws := rfl
@[simp] theorem advance_getV (k : Nat) (r : Reg) : (s.advance k).getV r = s.getV r := rfl
@[simp] theorem advance_memRead (k : Nat) (q : Addr) : (s.advance k).memRead q = s.memRead q := rfl

/-! `skipIf` -/
@[simp] theorem skipIf_v (c : Bool) : (s.skipIf c).v = s.v := rfl
@[simp] theorem skipIf_i (c : Bool) : (s.skipIf c).i = s.i := rfl
@[simp] theorem skipIf_pc (c : Bool) : (s.skipIf c).pc = seq s.cfg s.pc (if c then 4 else 2) := rfl
@[simp] theorem skipIf_stack (c : Bool) : (s.skipIf c).stack = s.stack := rfl
@[simp] theorem skipIf_sp (c : Bool) : (s.skipIf c).sp = s.sp := rfl
@[simp] theorem skipIf_dt (c : Bool) : (s.skipIf c).dt = s.dt := rfl
@[simp] theorem skipIf_st (c : Bool) : (s.skipIf c).st = s.st := rfl
@[simp] theorem skipIf_mem (c : Bool) : (s.skipIf c).mem = s.mem := rfl
@[simp] theorem skipIf_disp (c : Bool) : (s.skipIf c).disp = s.disp := rfl
@[simp] theorem skipIf_key (c : Bool) : (s.skipIf c).key = s.key := rfl
@[simp] theorem skipIf_running (c : Bool) : (s.skipIf c).running = s.running := rfl
@[simp] theorem skipIf_err (c : Bool) : (s.skipIf c).err = s.err := rfl
@[simp] theorem skipIf_tone (c : Bool) : (s.skipIf c).tone = s.tone := rfl
@[simp] theorem skipIf_cfg (c : Bool) : (s.skipIf c).cfg = s.cfg := rfl
@[simp] theorem skipIf_batch (c : Bool) : (s.skipIf c).batch = s.batch := rfl
@[simp] theorem skipIf_inputs (c : Bool) : (s.skipIf c).inputs = s.inputs := rfl
@[simp] theorem skipIf_outputs (c : Bool) : (s.skipIf c).outputs = s.outputs := rfl
@[simp] theorem skipIf_draws (c : Bool) : (s.skipIf c).draws = s.draws := rfl
@[simp] theorem skipIf_getV (c : Bool) (r : Reg) : (s.skipIf c).getV r = s.getV r := rfl
@[simp] theorem skipIf_memRead (c : Bool) (q : Addr) : (s.skipIf c).memRead q = s.memRead q := rfl

/-! `memWrite` -/
@[simp] theorem memWrite_v (a : Addr) (b : Byte) : (s.memWrite a b).v = s.v := rfl
@[simp] theorem memWrite_i (a : Addr) (b : Byte) : (s.memWrite a b).i = s.i := rfl
@[simp] theorem memWrite_pc (a : Addr) (b : Byte) : (s.memWrite a b).pc = s.pc := rfl
@[simp] theorem memWrite_stack (a : Addr) (b : Byte) : (s.memWrite a b).stack = s.stack := rfl
@[simp] theorem memWrite_sp (a : Addr) (b : Byte) : (s.memWrite a b).sp = s.sp := rfl
@[simp] theorem memWrite_dt (a : Addr) (b : Byte) : (s.memWrite a b).dt = s.dt := rfl
@[simp] theorem memWrite_st (a : Addr) (b : Byte) : (s.memWrite a b).st = s.st := rfl
@[simp] theorem memWrite_mem (a : Addr) (b : Byte) : (s.memWrite a b).mem = Memory.write s.cfg.font s.mem a.toNat b := rfl
@[simp] theorem memWrite_disp (a : Addr) (b : Byte) : (s.memWrite a b).disp = s.disp := rfl
@[simp] theorem memWrite_key (a : Addr) (b : Byte) : (s.memWrite a b).key = s.key := rfl
@[simp] theorem memWrite_running (a : Addr) (b : Byte) : (s.memWrite a b).running = s.running := rfl
@[simp] theorem memWrite_err (a : Addr) (b : Byte) : (s.memWrite a b).err = s.err := rfl
@[simp] theorem memWrite_tone (a : Addr) (b : Byte) : (s.memWrite a b).tone = s.tone := rfl
@[simp] theorem memWrite_cfg (a : Addr) (b : Byte) : (s.memWrite a b).cfg = s.cfg := rfl
@[simp] theorem memWrite_batch (a : Addr) (b : Byte) : (s.memWrite a b).batch = s.batch := rfl
@[simp] theorem memWrite_inputs (a : Addr) (b : Byte) : (s.memWrite a b).inputs = s.inputs := rfl
@[simp] theorem memWrite_outputs (a : Addr) (b : Byte) : (s.memWrite a b).outputs = s.outputs := rfl
@[simp] theorem memWrite_draws (a : Addr) (b : Byte) : (s.memWrite a b).draws = s.draws := rfl
@[simp] theorem memWrite_getV (a : Addr) (b : Byte) (r : Reg) : (s.memWrite a b).getV r = s.getV r := rfl

/-! `pop` -/
@[simp] theorem pop_v : (s.pop).v = s.v := rfl
@[simp] theorem pop_i : (s.pop).i = s.i := rfl
@[simp] theorem pop_pc : (s.pop).pc = s.pc := rfl
@[simp] theorem pop_stack : (s.pop).stack = s.stack := rfl
@[simp] theorem pop_sp : (s.pop).sp = s.popDepth := rfl
@[simp] theorem pop_dt : (s.pop).dt = s.dt := rfl
@[simp] theorem pop_st : (s.pop).st = s.st := rfl
@[simp] theorem pop_mem : (s.pop).mem = s.mem := rfl
@[simp] theorem pop_disp : (s.pop).disp = s.disp := rfl
@[simp] theorem pop_key : (s.pop).key = s.key := rfl
@[simp] theorem pop_running : (s.pop).running = s.running := rfl
@[simp] theorem pop_err : (s.pop).err = s.err := rfl
@[simp] theorem pop_tone : (s.pop).tone = s.tone := rfl
@[simp] theorem pop_cfg : (s.pop).cfg = s.cfg := rfl
@[simp] theorem pop_batch : (s.pop).batch = s.batch := rfl
@[simp] theorem pop_inputs : (s.pop).inputs = s.inputs := rfl
@[simp] theorem pop_outputs : (s.pop).outputs = s.outputs := rfl
@[simp] theorem pop_draws : (s.pop).draws = s.draws := rfl
@[simp] theorem pop_getV (r : Reg) : (s.pop).getV r = s.getV r := rfl
@[simp] theorem pop_memRead (q : Addr) : (s.pop).memRead q = s.memRead q := rfl

/-! `setDisp` -/
@[simp] theorem setDisp_v (d : Display) : (s.setDisp d).v = s.v := rfl
@[simp] theorem setDisp_i (d : Display) : (s.setDisp d).i = s.i := rfl
@[simp] theorem setDisp_pc (d : Display) : (s.setDisp d).pc = s.pc := rfl
@[simp] theorem setDisp_stack (d : Display) : (s.setDisp d).stack = s.stack := rfl
@[simp] theorem setDisp_sp (d : Display) : (s.setDisp d).sp = s.sp := rfl
@[simp] theorem setDisp_dt (d : Display) : (s.setDisp d).dt = s.dt := rfl
@[simp] theorem setDisp_st (d : Display) : (s.setDisp d).st = s.st := rfl
@[simp] theorem setDisp_mem (d : Display) : (s.setDisp d).mem = s.mem := rfl
@[simp] theorem setDisp_disp (d : Display) : (s.setDisp d).disp = d := rfl
@[simp] theorem setDisp_key (d : Display) : (s.setDisp d).key = s.key := rfl
@[simp] theorem setDisp_running (d : Display) : (s.setDisp d).running = s.running := rfl
@[simp] theorem setDisp_err (d : Display) : (s.setDisp d).err = s.err := rfl
@[simp] theorem setDisp_tone (d : Display) : (s.setDisp d).tone = s.tone := rfl
@[simp] theorem setDisp_cfg (d : Display) : (s.setDisp d).cfg = s.cfg := rfl
@[simp] theorem setDisp_batch (d : Display) : (s.setDisp d).batch = s.batch := rfl
@[simp] theorem setDisp_inputs (d : Display) : (s.setDisp d).inputs = s.inputs := rfl
@[simp] theorem setDisp_outputs (d : Display) : (s.setDisp d).outputs = s.outputs := rfl
@[simp] theorem setDisp_draws (d : Display) : (s.setDisp d).draws = s.draws := rfl
@[simp] theorem setDisp_getV (d : Display) (r : Reg) : (s.setDisp d).getV r = s.getV r := rfl
@[simp] theorem setDisp_memRead (d : Display) (q : Addr) : (s.setDisp d).memRead q = s.memRead q := rfl

/-! `emit` -/
@[simp] theorem emit_v (o : Output) : (s.emit o).v = s.v := rfl
@[simp] theorem emit_i (o : Output) : (s.emit o).i = s.i := rfl
@[simp] theorem emit_pc (o : Output) : (s.emit o).pc = s.pc := rfl
@[simp] theorem emit_stack (o : Output) : (s.emit o).stack = s.stack := rfl
@[simp] theorem emit_sp (o : Output) : (s.emit o).sp = s.sp := rfl
@[simp] theorem emit_dt (o : Output) : (s.emit o).dt = s.dt := rfl
@[simp] theorem emit_st (o : Output) : (s.emit o).st = s.st := rfl
@[simp] theorem emit_mem (o : Output) : (s.emit o).mem = s.mem := rfl
@[simp] theorem emit_disp (o : Output) : (s.emit o).disp = s.disp := rfl
@[simp] theorem emit_key (o : Output) : (s.emit o).key = s.key := rfl
@[simp] theorem emit_running (o : Output) : (s.emit o).running = s.running := rfl
@[simp] theorem emit_err (o : Output) : (s.emit o).err = s.err := rfl
@[simp] theorem emit_tone (o : Output) : (s.emit o).tone = s.tone := rfl
@[simp] theorem emit_cfg (o : Output) : (s.emit o).cfg = s.cfg := rfl
@[simp] theorem emit_batch (o : Output) : (s.emit o).batch = s.batch := rfl
@[simp] theorem emit_inputs (o : Output) : (s.emit o).inputs = s.inputs := rfl
@[simp] theorem emit_outputs (o : Output) : (s.emit o).outputs = o :: s.outputs := rfl
@[simp] theorem emit_draws (o : Output) : (s.emit o).draws = s.draws := rfl
@[simp] theorem emit_getV (o : Output) (r : Reg) : (s.emit o).getV r = s.getV r := rfl
@[simp] theorem emit_memRead (o : Output) (q : Addr) : (s.emit o).memRead q = s.memRead q := rfl

/-! `countDraw` -/
@[simp] theorem countDraw_v : (s.countDraw).v = s.v := rfl
@[simp] theorem countDraw_i : (s.countDraw).i = s.i := rfl
@[simp] theorem countDraw_pc : (s.countDraw).pc = s.pc := rfl
@[simp] theorem countDraw_stack : (s.countDraw).stack = s.stack := rfl
@[simp] theorem countDraw_sp : (s.countDraw).sp = s.sp := rfl
@[simp] theorem countDraw_dt : (s.countDraw).dt = s.dt := rfl
@[simp] theorem countDraw_st : (s.countDraw).st = s.st := rfl
@[simp] theorem countDraw_mem : (s.countDraw).mem = s.mem := rfl
@[simp] theorem countDraw_disp : (s.countDraw).disp = s.disp := rfl
@[simp] theorem countDraw_key : (s.countDraw).key = s.key := rfl
@[simp] theorem countDraw_running : (s.countDraw).running = s.running := rfl
@[simp] theorem countDraw_err : (s.countDraw).err = s.err := rfl
@[simp] theorem countDraw_tone : (s.countDraw).tone = s.tone := rfl
@[simp] theorem countDraw_cfg : (s.countDraw).cfg = s.cfg := rfl
@[simp] theorem countDraw_batch : (s.countDraw).batch = s.batch := rfl
@[simp] theorem countDraw_inputs : (s.countDraw).inputs = s.inputs := rfl
@[simp] theorem countDraw_outputs : (s.countDraw).outputs = s.outputs := rfl
@[simp] theorem countDraw_draws : (s.countDraw).draws = s.draws + 1 := rfl
@[simp] theorem countDraw_getV (r : Reg) : (s.countDraw).getV r = s.getV r := rfl
@[simp] theorem countDraw_memRead (q : Addr) : (s.countDraw).memRead q = s.memRead q := rfl

/-! `raiseFatal` -/
@[simp] theorem raiseFatal_v (kind : FatalKind) (op : Opcode) : (s.raiseFatal kind op).v = s.v := rfl
@[simp] theorem raiseFatal_i (kind : FatalKind) (op : Opcode) : (s.raiseFatal kind op).i = s.i := rfl
@[simp] theorem raiseFatal_pc (kind : FatalKind) (op : Opcode) : (s.raiseFatal kind op).pc = s.pc := rfl
@[simp] theorem raiseFatal_stack (kind : FatalKind) (op : Opcode) : (s.raiseFatal kind op).stack = s.stack := rfl
@[simp] theorem raiseFatal_sp (kind : FatalKind) (op : Opcode) : (s.raiseFatal kind op).sp = s.sp := rfl
@[simp] theorem raiseFatal_dt (kind : FatalKind) (op : Opcode) : (s.raiseFatal kind op).dt = s.dt := rfl
@[simp] theorem raiseFatal_st (kind : FatalKind) (op : Opcode) : (s.raiseFatal kind op).st = s.st := rfl
@[simp] theorem raiseFatal_mem (kind : FatalKind) (op : Opcode) : (s.raiseFatal kind op).mem = s.mem := rfl
@[simp] theorem raiseFatal_disp (kind : FatalKind) (op : Opcode) : (s.raiseFatal kind op).disp = s.disp := rfl
@[simp] theorem raiseFatal_key (kind : FatalKind) (op : Opcode) : (s.raiseFatal kind op).key = s.key := rfl
@[simp] theorem raiseFatal_running (kind : FatalKind) (op : Opcode) : (s.raiseFatal kind op).running = false := rfl
@[simp] theorem raiseFatal_err (kind : FatalKind) (op : Opcode) : (s.raiseFatal kind op).err = some ⟨kind, s.pc, op⟩ := rfl
@[simp] theorem raiseFatal_tone (kind : FatalKind) (op : Opcode) : (s.raiseFatal kind op).tone = false := rfl
@[simp] theorem raiseFatal_cfg (kind : FatalKind) (op : Opcode) : (s.raiseFatal kind op).cfg = s.cfg := rfl
@[simp] theorem raiseFatal_batch (kind : FatalKind) (op : Opcode) : (s.raiseFatal kind op).batch = none := rfl
@[simp] theorem raiseFatal_inputs (kind : FatalKind) (op : Opcode) : (s.raiseFatal kind op).inputs = s.inputs := rfl
@[simp] theorem raiseFatal_outputs (kind : FatalKind) (op : Opcode) : (s.raiseFatal kind op).outputs = .fatal ⟨kind, s.pc, op⟩ :: s.outputs := rfl
@[simp] theorem raiseFatal_draws (kind : FatalKind) (op : Opcode) : (s.raiseFatal kind op).draws = s.draws := rfl
@[simp] theorem raiseFatal_getV (kind : FatalKind) (op : Opcode) (r : Reg) : (s.raiseFatal kind op).getV r = s.getV r := rfl
@[simp] theorem raiseFatal_memRead (kind : FatalKind) (op : Opcode) (q : Addr) : (s.raiseFatal kind op).memRead q = s.memRead q := rfl

/-! `beginCycle` -/
@[simp] theorem beginCycle_v : (s.beginCycle).v = s.v := rfl
@[simp] theorem beginCycle_i : (s.beginCycle).i = s.i := rfl
@[simp] theorem beginCycle_pc : (s.beginCycle).pc = s.pc := rfl
@[simp] theorem beginCycle_stack : (s.beginCycle).stack = s.stack := rfl
@[simp] theorem beginCycle_sp : (s.beginCycle).sp = s.sp := rfl
@[simp] theorem beginCycle_dt : (s.beginCycle).dt = s.dt := rfl
@[simp] theorem beginCycle_st : (s.beginCycle).st = s.st := rfl
@[simp] theorem beginCycle_mem : (s.beginCycle).mem = s.mem := rfl
@[simp] theorem beginCycle_disp : (s.beginCycle).disp = s.disp := rfl
@[simp] theorem beginCycle_key : (s.beginCycle).key = s.key := rfl
@[simp] theorem beginCycle_running : (s.beginCycle).running = s.running := rfl
@[simp] theorem beginCycle_err : (s.beginCycle).err = s.err := rfl
@[simp] theorem beginCycle_tone : (s.beginCycle).tone = s.tone := rfl
@[simp] theorem beginCycle_cfg : (s.beginCycle).cfg = s.cfg := rfl
@[simp] theorem beginCycle_batch : (s.beginCycle).batch = s.batch.map (· - 1) := rfl
@[simp] theorem beginCycle_inputs : (s.beginCycle).inputs = passCycle s.inputs := rfl
@[simp] theorem beginCycle_outputs : (s.beginCycle).outputs = s.outputs := rfl
@[simp] theorem beginCycle_draws : (s.beginCycle).draws = s.draws := rfl
@[simp] theorem beginCycle_getV (r : Reg) : (s.beginCycle).getV r = s.getV r := rfl
@[simp] theorem beginCycle_memRead (q : Addr) : (s.beginCycle).memRead q = s.memRead q := rfl

/-! `endTick` -/
@[simp] theorem endTick_v : (s.endTick).v = s.v := rfl
@[simp] theorem endTick_i : (s.endTick).i = s.i := rfl
@[simp] theorem endTick_pc : (s.endTick).pc = s.pc := rfl
@[simp] theorem endTick_stack : (s.endTick).stack = s.stack := rfl
@[simp] theorem endTick_sp : (s.endTick).sp = s.sp := rfl
@[simp] theorem endTick_dt : (s.endTick).dt = s.dt := rfl
@[simp] theorem endTick_st : (s.endTick).st = s.st := rfl
@[simp] theorem endTick_mem : (s.endTick).mem = s.mem := rfl
@[simp] theorem endTick_disp : (s.endTick).disp = s.disp := rfl
@[simp] theorem endTick_key : (s.endTick).key = s.key := rfl
@[simp] theorem endTick_running : (s.endTick).running = s.running := rfl
@[simp] theorem endTick_err : (s.endTick).err = s.err := rfl
@[simp] theorem endTick_tone : (s.endTick).tone = (s.running && s.st != 0) := rfl
@[simp] theorem endTick_cfg : (s.endTick).cfg = s.cfg := rfl
@[simp] theorem endTick_batch : (s.endTick).batch = none := rfl
@[simp] theorem endTick_inputs : (s.endTick).inputs = s.inputs := rfl
@[simp] theorem endTick_outputs : (s.endTick).outputs = s.outputs := rfl
@[simp] theorem endTick_draws : (s.endTick).draws = s.draws := rfl
@[simp] theorem endTick_getV (r : Reg) : (s.endTick).getV r = s.getV r := rfl
@[simp] theorem endTick_memRead (q : Addr) : (s.endTick).memRead q = s.memRead q := rfl

/-! `resetBlock` -/
@[simp] theorem resetBlock_v : (s.resetBlock).v = Vector.replicate 16 0 := rfl
@[simp] theorem resetBlock_i : (s.resetBlock).i = 0 := rfl
@[simp] theorem resetBlock_pc : (s.resetBlock).pc = 0x200 := rfl
@[simp] theorem resetBlock_stack : (s.resetBlock).stack = Vector.replicate 16 0 := rfl
@[simp] theorem resetBlock_sp : (s.resetBlock).sp = 0 := rfl
@[simp] theorem resetBlock_dt : (s.resetBlock).dt = 0 := rfl
@[simp] theorem resetBlock_st : (s.resetBlock).st = 0 := rfl
@[simp] theorem resetBlock_mem : (s.resetBlock).mem = [] := rfl
@[simp] theorem resetBlock_disp : (s.resetBlock).disp = Display.clear := rfl
@[simp] theorem resetBlock_key : (s.resetBlock).key = s.key := rfl
@[simp] theorem resetBlock_running : (s.resetBlock).running = false := rfl
@[simp] theorem resetBlock_err : (s.resetBlock).err = none := rfl
@[simp] theorem resetBlock_tone : (s.resetBlock).tone = false := rfl
@[simp] theorem resetBlock_cfg : (s.resetBlock).cfg = s.cfg := rfl
@[simp] theorem resetBlock_batch : (s.resetBlock).batch = none := rfl
@[simp] theorem resetBlock_inputs : (s.resetBlock).inputs = s.inputs := rfl
@[simp] theorem resetBlock_outputs : (s.resetBlock).outputs = s.outputs := rfl
@[simp] theorem resetBlock_draws : (s.resetBlock).draws = s.draws := rfl

/-! `push`, which leaves the state alone at SP = 16 -/
@[simp] theorem push_v (a : Addr) : (s.push a).v = s.v := by unfold State.push; split <;> rfl
@[simp] theorem push_i (a : Addr) : (s.push a).i = s.i := by unfold State.push; split <;> rfl
@[simp] theorem push_pc (a : Addr) : (s.push a).pc = s.pc := by unfold State.push; split <;> rfl
@[simp] theorem push_dt (a : Addr) : (s.push a).dt = s.dt := by unfold State.push; split <;> rfl
@[simp] theorem push_st (a : Addr) : (s.push a).st = s.st := by unfold State.push; split <;> rfl
@[simp] theorem push_mem (a : Addr) : (s.push a).mem = s.mem := by unfold State.push; split <;> rfl
@[simp] theorem push_disp (a : Addr) : (s.push a).disp = s.disp := by unfold State.push; split <;> rfl
@[simp] theorem push_key (a : Addr) : (s.push a).key = s.key := by unfold State.push; split <;> rfl
@[simp] theorem push_running (a : Addr) : (s.push a).running = s.running := by unfold State.push; split <;> rfl
@[simp] theorem push_err (a : Addr) : (s.push a).err = s.err := by unfold State.push; split <;> rfl
@[simp] theorem push_tone (a : Addr) : (s.push a).tone = s.tone := by unfold State.push; split <;> rfl
@[simp] theorem push_cfg (a : Addr) : (s.push a).cfg = s.cfg := by unfold State.push; split <;> rfl
@[simp] theorem push_batch (a : Addr) : (s.push a).batch = s.batch := by unfold State.push; split <;> rfl
@[simp] theorem push_inputs (a : Addr) : (s.push a).inputs = s.inputs := by unfold State.push; split <;> rfl
@[simp] theorem push_outputs (a : Addr) : (s.push a).outputs = s.outputs := by unfold State.push; split <;> rfl
@[simp] theorem push_draws (a : Addr) : (s.push a).draws = s.draws := by unfold State.push; split <;> rfl
@[simp] theorem push_getV (a : Addr) (r : Reg) : (s.push a).getV r = s.getV r := by unfold State.push; split <;> rfl
@[simp] theorem push_memRead (a q : Addr) : (s.push a).memRead q = s.memRead q := by unfold State.push; split <;> rfl

/-- A push below SP = 16 stores the address at the old SP and moves SP up by one (R23). -/
theorem push_of_lt (a : Addr) (h : s.sp.val < 16) :
    s.push a = { s with stack := s.stack.set s.sp.val a, sp := ⟨s.sp.val + 1, by omega⟩ } := by
  unfold State.push; rw [dif_pos h]

/-! ### Reading a register after writing one (R16) -/

@[simp] theorem getV_setV_same (x : Reg) (b : Byte) : (s.setV x b).getV x = b := by
  simp [State.getV, State.setV]

theorem getV_setV_ne {x r : Reg} (b : Byte) (h : r ≠ x) : (s.setV x b).getV r = s.getV r := by
  have h' : x.val ≠ r.val := fun e => h (Fin.ext e.symm)
  simp [State.getV, State.setV, Vector.getElem_set_ne _ _ h']

theorem getV_setV (x r : Reg) (b : Byte) : (s.setV x b).getV r = if r = x then b else s.getV r := by
  by_cases h : r = x
  · subst h; simp
  · simp [h, getV_setV_ne s b h]

theorem ea_congr (k : Nat) (t : State) (h : t.i = s.i) : t.ea k = s.ea k := by simp [State.ea, h]

/-- The exact address of the effective address: I + k modulo 4096 (R40). -/
theorem ea_eq (k : Nat) : s.ea k = BitVec.ofNat 12 (s.i.toNat + k) := by
  apply BitVec.eq_of_toNat_eq; simp [State.ea, Nat.add_mod]

end

end Sys2Proof.Machine
end

