-- ==== Sys2Proof/Laws/Display.lean ====
section
/-! SUPPORT. Reading a cell of the display after setting one, and equality of displays cell by cell (43_display.md). -/
namespace Sys2Proof.Machine

/-- Reading a cell after one cell has been set. -/
theorem cell_set (d : Display) (x x' : Fin 64) (y y' : Fin 32) (b : Bool) :
    Display.cell (d.set y.val (d[y.val].set x.val b)) x' y' =
      if x' = x ∧ y' = y then b else d.cell x' y' := by
  simp only [Display.cell, Vector.getElem_set]
  by_cases hy : y' = y
  · subst hy
    by_cases hx : x' = x
    · subst hx; simp
    · have : x.val ≠ x'.val := fun e => hx (Fin.ext e.symm)
      simp [hx, Vector.getElem_set_ne _ _ this]
  · have : y.val ≠ y'.val := fun e => hy (Fin.ext e.symm)
    simp [hy, this]

/-- Two displays that agree on every cell are equal. -/
theorem display_ext {d e : Display} (h : ∀ x y, d.cell x y = e.cell x y) : d = e := by
  apply Vector.ext; intro y hy
  apply Vector.ext; intro x hx
  exact h ⟨x, hx⟩ ⟨y, hy⟩

end Sys2Proof.Machine
end

