-- ==== Sys2Proof/Laws/Flags.lean ====
section
/-! SUPPORT. The value of each ALU result and flag as a number, so that no proof unfolds it (10_state.md R25,
41_register_alu.md R76). -/
namespace Sys2Proof.Machine

@[simp] theorem flagOf_toNat (c : Bool) : (flagOf c).toNat = if c then 1 else 0 := by cases c <;> rfl

@[simp] theorem sumByte_toNat (a b : Byte) : (sumByte a b).toNat = (a.toNat + b.toNat) % 256 := by simp [sumByte]

theorem carryFlag_toNat (a b : Byte) : (carryFlag a b).toNat = if 256 ≤ a.toNat + b.toNat then 1 else 0 := by
  simp [carryFlag]

/-- The difference is the exact one modulo 256, and never negative. -/
theorem differenceByte_toNat (a b : Byte) :
    ((differenceByte a b).toNat : Int) = ((a.toNat : Int) - b.toNat) % 256 := by
  simp [differenceByte, difference]; omega

theorem notBorrowFlag_toNat (a b : Byte) : (notBorrowFlag a b).toNat = if a.toNat < b.toNat then 0 else 1 := by
  have h : difference a b < 0 ↔ a.toNat < b.toNat := by unfold difference; omega
  unfold notBorrowFlag
  by_cases hab : a.toNat < b.toNat
  · rw [if_pos (h.mpr hab), if_pos hab]; rfl
  · rw [if_neg (fun e => hab (h.mp e)), if_neg hab]; rfl

theorem lowBitFlag_toNat (v : Byte) : (lowBitFlag v).toNat = v.toNat % 2 := by
  simp [lowBitFlag, Nat.and_one_is_mod]

theorem highBitFlag_toNat (v : Byte) : (highBitFlag v).toNat = v.toNat / 128 := by
  have := v.isLt
  simp [highBitFlag, Nat.and_one_is_mod, Nat.shiftRight_eq_div_pow]
  omega

theorem indexOverflowFlag_toNat (i : Addr) (b : Byte) :
    (indexOverflowFlag i b).toNat = if 0xFFF < i.toNat + b.toNat then 1 else 0 := by
  unfold indexOverflowFlag indexSum
  rw [flagOf_toNat]
  simp only [decide_eq_true_eq]

/-- A draw from [0, nn) of a range that is not empty lies in it. -/
theorem drawInRange_halfOpen_lt {nn : Byte} (q : Byte) (h : 0 < nn.toNat) :
    (drawInRange .halfOpen nn q).toNat < nn.toNat := by
  have hne : nn ≠ 0 := fun e => by simp [e] at h
  have hq := Nat.mod_lt q.toNat h
  have := nn.isLt
  unfold drawInRange
  dsimp only
  rw [if_neg hne, BitVec.toNat_ofNat, Nat.mod_eq_of_lt (by omega)]
  exact hq

/-- A draw from [0, nn] lies in it. -/
theorem drawInRange_inclusive_le (nn q : Byte) : (drawInRange .inclusive nn q).toNat ≤ nn.toNat := by
  have hq := Nat.mod_lt q.toNat (show 0 < nn.toNat + 1 by omega)
  have := nn.isLt
  unfold drawInRange
  dsimp only
  rw [BitVec.toNat_ofNat, Nat.mod_eq_of_lt (by omega)]
  omega

/-- Every value of [0, nn) is some draw's: the range is narrowed no further than the spec narrows it (log 3). -/
theorem drawInRange_halfOpen_onto {nn v : Byte} (h : v.toNat < nn.toNat) : ∃ q, drawInRange .halfOpen nn q = v := by
  refine ⟨v, ?_⟩
  have hne : nn ≠ 0 := fun e => by simp [e] at h
  unfold drawInRange
  dsimp only
  rw [if_neg hne, Nat.mod_eq_of_lt h]
  simp

/-- Every value of [0, nn] is some draw's (log 3). -/
theorem drawInRange_inclusive_onto {nn v : Byte} (h : v.toNat ≤ nn.toNat) : ∃ q, drawInRange .inclusive nn q = v := by
  refine ⟨v, ?_⟩
  unfold drawInRange
  dsimp only
  rw [Nat.mod_eq_of_lt (by omega)]
  simp

end Sys2Proof.Machine
end

