-- ==== Sys2Proof/Laws/Memory.lean ====
section
/-! SUPPORT. The laws of memory: a read after a write, the canonical form under a write, and what they give for a state
(20_memory.md R34, R35). -/
namespace Sys2Proof.Machine

/-! ### The list -/

@[simp] theorem read_nil (font : Font) (a : Nat) : Memory.read font [] a = Memory.unlisted font a := rfl

@[simp] theorem read_cons (font : Font) (c : Host.Cell) (m : List Host.Cell) (a : Nat) :
    Memory.read font (c :: m) a = if c.1 = a then c.2 else Memory.read font m a := rfl

theorem read_filter (font : Font) (m : List Host.Cell) (a q : Nat) :
    Memory.read font (m.filter (fun c => c.1 != a)) q =
      if q = a then Memory.unlisted font a else Memory.read font m q := by
  induction m with
  | nil => by_cases h : q = a <;> simp [h]
  | cons c m ih =>
    by_cases hc : c.1 = a
    · simp only [hc, bne_self_eq_false, List.filter_cons_of_neg, Bool.false_eq_true, not_false_eq_true, ih, read_cons]
      by_cases h : q = a
      · simp [h]
      · simp [h, Ne.symm h]
    · simp only [bne_iff_ne, ne_eq, hc, not_false_eq_true, List.filter_cons_of_pos, read_cons, ih]
      by_cases h : q = a
      · subst h; simp [hc]
      · simp [h]

theorem read_insert (font : Font) (m : List Host.Cell) (a q : Nat) (b : Byte) :
    Memory.read font (Memory.insert a b m) q = if q = a then b else Memory.read font m q := by
  induction m with
  | nil =>
    by_cases h : q = a
    · simp [Memory.insert, h]
    · simp [Memory.insert, h, Ne.symm h]
  | cons c m ih =>
    unfold Memory.insert
    split
    · by_cases h : q = a
      · simp [h]
      · simp [h, Ne.symm h]
    · split
      · rename_i h1 h2
        by_cases h : q = a
        · simp [h]
        · simp [h, Ne.symm h, ← h2]
      · rename_i h1 h2
        by_cases h : q = a
        · subst h; simp [ih, Ne.symm h2]
        · simp [ih, h]

/-- A read after a write: the written byte at the written address, and the old byte elsewhere. -/
theorem read_write (font : Font) (m : List Host.Cell) (a q : Nat) (b : Byte) :
    Memory.read font (Memory.write font m a b) q = if q = a then b else Memory.read font m q := by
  unfold Memory.write
  split
  · rename_i h; rw [read_filter]; simp [h]
  · exact read_insert font m a q b

theorem mem_insert {a : Nat} {b : Byte} {m : List Host.Cell} {c : Host.Cell} (h : c ∈ Memory.insert a b m) :
    c = (a, b) ∨ c ∈ m := by
  induction m with
  | nil => simpa [Memory.insert] using h
  | cons d m ih =>
    unfold Memory.insert at h
    split at h
    · simpa using h
    · split at h
      · rcases List.mem_cons.mp h with h | h
        · exact .inl h
        · exact .inr (List.mem_cons_of_mem _ h)
      · rcases List.mem_cons.mp h with h | h
        · exact .inr (h ▸ List.mem_cons_self ..)
        · rcases ih h with h | h
          · exact .inl h
          · exact .inr (List.mem_cons_of_mem _ h)

theorem pairwise_insert {a : Nat} {b : Byte} {m : List Host.Cell} (h : m.Pairwise (fun c d => c.1 < d.1)) :
    (Memory.insert a b m).Pairwise (fun c d => c.1 < d.1) := by
  induction m with
  | nil => simp [Memory.insert]
  | cons c m ih =>
    have hc := List.pairwise_cons.mp h
    unfold Memory.insert
    split
    · rename_i hlt
      refine List.pairwise_cons.mpr ⟨fun d hd => ?_, h⟩
      rcases List.mem_cons.mp hd with rfl | hd
      · exact hlt
      · exact lt_trans hlt (hc.1 d hd)
    · split
      · rename_i heq
        exact List.pairwise_cons.mpr ⟨fun d hd => by simpa [heq] using hc.1 d hd, hc.2⟩
      · rename_i h1 h2
        refine List.pairwise_cons.mpr ⟨fun d hd => ?_, ih hc.2⟩
        rcases mem_insert hd with rfl | hd
        · show c.1 < a; omega
        · exact hc.1 d hd

/-- Every write keeps the canonical form. -/
theorem wf_write {font : Font} {m : List Host.Cell} {a : Nat} {b : Byte} (ha : a < 4096) (h : Memory.wf font m) :
    Memory.wf font (Memory.write font m a b) := by
  unfold Memory.write
  split
  · exact ⟨h.1.filter _, fun c hc => h.2 c (List.mem_filter.mp hc).1⟩
  · rename_i hb
    refine ⟨pairwise_insert h.1, fun c hc => ?_⟩
    rcases mem_insert hc with rfl | hc
    · exact ⟨ha, hb⟩
    · exact h.2 c hc

theorem wf_nil (font : Font) : Memory.wf font [] := ⟨List.Pairwise.nil, by simp⟩

/-! ### The state -/

theorem memRead_memWrite (s : State) (a q : Addr) (b : Byte) :
    (s.memWrite a b).memRead q = if q = a then b else s.memRead q := by
  simp [State.memRead, read_write, BitVec.toNat_inj]

@[simp] theorem memRead_memWrite_same (s : State) (a : Addr) (b : Byte) : (s.memWrite a b).memRead a = b := by
  simp [memRead_memWrite]

theorem memRead_memWrite_ne (s : State) {a q : Addr} (b : Byte) (h : q ≠ a) :
    (s.memWrite a b).memRead q = s.memRead q := by simp [memRead_memWrite, h]

theorem wf_memWrite {s : State} (a : Addr) (b : Byte) (h : Memory.wf s.cfg.font s.mem) :
    Memory.wf (s.memWrite a b).cfg.font (s.memWrite a b).mem := wf_write a.isLt h

/-- Every register of the block but memory is untouched by a run of writes, and so is the canonical form. -/
theorem writeBytes_spec (s : State) (a : Nat) (bs : List Byte) :
    ∃ m, s.writeBytes a bs = { s with mem := m } ∧ (Memory.wf s.cfg.font s.mem → Memory.wf s.cfg.font m) := by
  induction bs generalizing s a with
  | nil => exact ⟨s.mem, rfl, id⟩
  | cons b bs ih =>
    obtain ⟨m, hm, hw⟩ := ih (s.memWrite (BitVec.ofNat 12 a) b) (a + 1)
    exact ⟨m, by simpa [State.writeBytes, State.memWrite] using hm,
      fun h => hw (wf_memWrite (s := s) _ _ h)⟩

end Sys2Proof.Machine
end

