-- ==== Sys2Proof/Laws/Frame.lean ====
section
/-! SUPPORT. Frames: how they compose, and the frame of each shared operation. -/
namespace Sys2Proof.Machine

theorem Part.same_refl (s : State) (p : Part) : p.same s s := by cases p <;> rfl

theorem Part.same_trans {s t u : State} {p : Part} (h₁ : p.same s t) (h₂ : p.same t u) : p.same s u := by
  cases p <;> exact Eq.trans h₂ h₁

theorem Part.same_symm {s t : State} {p : Part} (h : p.same s t) : p.same t s := by
  cases p <;> exact Eq.symm h

theorem KeepsOutside.mono {w w' : Part → Prop} {s t : State} (h : KeepsOutside w s t) (hw : ∀ p, w p → w' p) :
    KeepsOutside w' s t := fun p hp => h p (fun hq => hp (hw p hq))

theorem KeepsOutside.refl (w : Part → Prop) (s : State) : KeepsOutside w s s := fun p _ => p.same_refl s

theorem KeepsOutside.trans {w : Part → Prop} {s t u : State} (h₁ : KeepsOutside w s t) (h₂ : KeepsOutside w t u) :
    KeepsOutside w s u := fun p hp => Part.same_trans (h₁ p hp) (h₂ p hp)

/-- A frame through two operations writes what either writes. -/
theorem KeepsAllBut.trans {l l' : List Part} {s t u : State} (h₁ : KeepsAllBut l s t) (h₂ : KeepsAllBut l' t u) :
    KeepsAllBut (l ++ l') s u :=
  (h₁.mono fun _ hp => List.mem_append_left _ hp).trans (h₂.mono fun _ hp => List.mem_append_right _ hp)

theorem KeepsAllBut.mono {l l' : List Part} {s t : State} (h : KeepsAllBut l s t) (hl : ∀ p ∈ l, p ∈ l') :
    KeepsAllBut l' s t := KeepsOutside.mono h hl

/-! ### The frame of each operation -/

theorem keeps_setV (s : State) (x : Reg) (b : Byte) : KeepsAllBut [.reg x] s (s.setV x b) := by
  intro p hp
  cases p with
  | reg r => exact getV_setV_ne s b (fun h => hp (by simp [h]))
  | _ => rfl

theorem keeps_setI (s : State) (a : Addr) : KeepsAllBut [.index] s (s.setI a) := by
  intro p hp; cases p <;> first | rfl | (exact absurd (List.mem_singleton.mpr rfl) hp)

theorem keeps_setDt (s : State) (b : Byte) : KeepsAllBut [.delay] s (s.setDt b) := by
  intro p hp; cases p <;> first | rfl | (exact absurd (List.mem_singleton.mpr rfl) hp)

theorem keeps_setSt (s : State) (b : Byte) : KeepsAllBut [.sound] s (s.setSt b) := by
  intro p hp; cases p <;> first | rfl | (exact absurd (List.mem_singleton.mpr rfl) hp)

theorem keeps_setPc (s : State) (a : Pc) : KeepsAllBut [.pc] s (s.setPc a) := by
  intro p hp; cases p <;> first | rfl | (exact absurd (List.mem_singleton.mpr rfl) hp)

theorem keeps_advance (s : State) (k : Nat) : KeepsAllBut [.pc] s (s.advance k) := keeps_setPc s _

theorem keeps_skipIf (s : State) (c : Bool) : KeepsAllBut [.pc] s (s.skipIf c) := keeps_setPc s _

theorem keeps_memWrite (s : State) (a : Addr) (b : Byte) : KeepsAllBut [.byte a] s (s.memWrite a b) := by
  intro p hp
  cases p with
  | byte q => exact memRead_memWrite_ne s b (fun h => hp (by simp [h]))
  | _ => rfl

theorem keeps_pop (s : State) : KeepsAllBut [.stackDepth] s s.pop := by
  intro p hp; cases p <;> first | rfl | (exact absurd (List.mem_singleton.mpr rfl) hp)

theorem keeps_push (s : State) (a : Addr) (k : Fin 16) (h : s.sp.val = k.val) :
    KeepsAllBut [.stackDepth, .stackEntry k] s (s.push a) := by
  rw [push_of_lt s a (by omega)]
  intro p hp
  cases p with
  | stackDepth => simp at hp
  | stackEntry j =>
    have hne : s.sp.val ≠ j.val := fun e => hp (by simp [Fin.ext (e.symm.trans h)])
    simp [Part.same, Vector.getElem_set_ne _ _ hne]
  | _ => rfl

theorem keeps_emit (s : State) (o : Output) : KeepsAllBut [.outputs] s (s.emit o) := by
  intro p hp; cases p <;> first | rfl | (exact absurd (List.mem_singleton.mpr rfl) hp)

theorem keeps_countDraw (s : State) : KeepsAllBut [.draws] s s.countDraw := by
  intro p hp; cases p <;> first | rfl | (exact absurd (List.mem_singleton.mpr rfl) hp)

/-- The part is a cell of the display. -/
def Part.isCell : Part → Prop
  | .cell _ _ => True
  | _ => False

theorem keeps_setDisp (s : State) (d : Display) : KeepsOutside Part.isCell s (s.setDisp d) := by
  intro p hp; cases p <;> first | rfl | (exact absurd trivial hp)

theorem keeps_beginCycle (s : State) : KeepsAllBut [.batch, .inputs] s s.beginCycle := by
  intro p hp; cases p <;> first | rfl | simp at hp

theorem keeps_endTick (s : State) : KeepsAllBut [.tone, .batch] s s.endTick := by
  intro p hp; cases p <;> first | rfl | simp at hp

/-- The entry of a fatal error writes the record, the run state, the tone, the rest of the tick and the signal (R111). -/
theorem keeps_raiseFatal (s : State) (kind : FatalKind) (op : Opcode) :
    KeepsAllBut [.err, .running, .tone, .batch, .outputs] s (s.raiseFatal kind op) := by
  intro p hp; cases p <;> first | rfl | simp at hp

theorem keeps_resultThenFlag (s : State) (x : Reg) (r f : Byte) :
    KeepsAllBut [.reg x, .reg vf] s (s.resultThenFlag x r f) := (keeps_setV s x r).trans (keeps_setV _ vf f)

theorem keeps_flagThenResult (s : State) (x : Reg) (r f : Byte) :
    KeepsAllBut [.reg vf, .reg x] s (s.flagThenResult x r f) := (keeps_setV s vf f).trans (keeps_setV _ x r)

/-- The whole effect of the loop of FX55 but for memory, which keeps its form (R94). -/
theorem storeRegs_spec (s : State) (n : Nat) :
    ∃ m, s.storeRegs n = { s with mem := m } ∧ (Memory.wf s.cfg.font s.mem → Memory.wf s.cfg.font m) := by
  induction n with
  | zero => exact ⟨_, rfl, id⟩
  | succ n ih =>
    obtain ⟨m, h, hw⟩ := ih
    exact ⟨_, by rw [State.storeRegs, h]; rfl, fun h' => wf_write (BitVec.isLt _) (hw h')⟩

/-- The loop of FX65 writes registers and nothing else (R95). -/
theorem loadRegs_spec (s : State) (n : Nat) : ∃ v, s.loadRegs n = { s with v := v } := by
  induction n with
  | zero => exact ⟨_, rfl⟩
  | succ n ih =>
    obtain ⟨v, h⟩ := ih
    exact ⟨_, by rw [State.loadRegs, h]; rfl⟩

end Sys2Proof.Machine
end

