-- ==== Sys2Proof/Laws/Operands.lean ====
section
/-! SUPPORT. The value of each operand form (20_memory.md R40, 30_encoding.md R55). -/
namespace Sys2Proof.Machine

/-- Effective addresses at different offsets differ while the offsets stay inside the space. -/
theorem ea_ne (s : State) {j k : Nat} (hj : j < 4096) (hk : k < 4096) (h : j ≠ k) : s.ea j ≠ s.ea k := by
  intro e
  have := congrArg BitVec.toNat e
  simp [State.ea, BitVec.toNat_add] at this
  omega

theorem indexedTarget_eq (s : State) (nnn : Addr) :
    s.indexedTarget nnn = BitVec.ofNat 12 (nnn.toNat + (s.getV 0).toNat) := by
  apply BitVec.eq_of_toNat_eq
  simp [State.indexedTarget, BitVec.toNat_add]

@[simp] theorem toPc_toNat (a : Addr) : (Addr.toPc a).toNat = a.toNat := by
  have := a.isLt
  simp [Addr.toPc]; omega

theorem glyphAddr_toNat (digit : Byte) : (glyphAddr digit).toNat = 5 * digit.toNat := by
  have := digit.isLt
  simp [glyphAddr]; omega

@[simp] theorem rangeReg_val (x : Reg) : rangeReg x.val = x := Fin.ext (Nat.mod_eq_of_lt x.isLt)

theorem keyPressed_of_key {s : State} {b : Byte} (k : Fin 16) (h : b.toNat = k.val) : s.keyPressed b = s.key[k.val] := by
  unfold State.keyPressed
  simp [h]

theorem keyPressed_of_le {s : State} {b : Byte} (h : 16 ≤ b.toNat) : s.keyPressed b = false := by
  unfold State.keyPressed
  rw [dif_neg (by omega)]

theorem keyPressed_iff (s : State) (b : Byte) :
    s.keyPressed b = true ↔ ∃ k : Fin 16, b.toNat = k.val ∧ s.key[k.val] = true := by
  constructor
  · intro h
    by_cases hb : b.toNat < 16
    · exact ⟨⟨b.toNat, hb⟩, rfl, by rw [keyPressed_of_key ⟨b.toNat, hb⟩ rfl] at h; exact h⟩
    · rw [keyPressed_of_le (by omega)] at h; cases h
  · rintro ⟨k, hk, hp⟩
    rw [keyPressed_of_key k hk, hp]

theorem lowestKey_eq_some {s : State} {k : Fin 16} (h : s.key[k.val] = true)
    (hj : ∀ j : Fin 16, j < k → s.key[j.val] = false) : s.lowestKey = some k := by
  unfold State.lowestKey
  rw [List.find?_eq_some_iff_getElem]
  refine ⟨h, k.val, by simp, by simp, fun j hjk => ?_⟩
  simp; exact hj ⟨j, by omega⟩ hjk

theorem lowestKey_eq_none {s : State} (h : ∀ j : Fin 16, s.key[j.val] = false) : s.lowestKey = none := by
  unfold State.lowestKey
  rw [List.find?_eq_none]
  intro j _
  simp [h j]

theorem lowestKey_isSome (s : State) : s.lowestKey.isSome = true ↔ ∃ k : Fin 16, s.key[k.val] = true := by
  simp [State.lowestKey, List.find?_isSome]

end Sys2Proof.Machine
end

