-- ==== Sys2Proof/Laws/Loops.lean ====
section
/-! SUPPORT. What the loops of FX55, FX65 and DXYN compute (42_index_memory.md R94, R95; 43_display.md R99). -/
namespace Sys2Proof.Machine

/-! ### FX55 and FX65 -/

/-- After storing `n` registers, the byte at each of their addresses is the register. -/
theorem storeRegs_at {s : State} {n : Nat} (hn : n ≤ 16) (k : Reg) (hk : k.val < n) :
    (s.storeRegs n).memRead (s.ea k.val) = s.getV k := by
  induction n with
  | zero => omega
  | succ n ih =>
    rw [State.storeRegs, memRead_memWrite]
    by_cases h : k.val = n
    · subst h; simp
    · rw [if_neg (ea_ne s (by omega) (by omega) h)]; exact ih (by omega) (by omega)

/-- Storing `n` registers leaves every byte at another address alone. -/
theorem storeRegs_ne {s : State} {n : Nat} (hn : n ≤ 16) {a : Addr} (ha : ∀ k : Reg, k.val < n → a ≠ s.ea k.val) :
    (s.storeRegs n).memRead a = s.memRead a := by
  induction n with
  | zero => rfl
  | succ n ih =>
    rw [State.storeRegs, memRead_memWrite_ne _ _ (ha ⟨n, by omega⟩ (by simp)),
      ih (by omega) (fun k hk => ha k (by omega))]

/-- After loading `n` registers, each of them holds its byte and the others are as before. -/
theorem loadRegs_getV {s : State} {n : Nat} (hn : n ≤ 16) (r : Reg) :
    (s.loadRegs n).getV r = if r.val < n then s.memRead (s.ea r.val) else s.getV r := by
  induction n with
  | zero => simp [State.loadRegs]
  | succ n ih =>
    rw [State.loadRegs, getV_setV, ih (by omega)]
    by_cases h : r.val = n
    · subst h; simp
    · have : r ≠ rangeReg n := fun e => h (by rw [e]; simp [rangeReg]; omega)
      rw [if_neg this]
      by_cases h2 : r.val < n
      · rw [if_pos h2, if_pos (by omega)]
      · rw [if_neg h2, if_neg (by omega)]

/-! ### DXYN -/

/-- The first `n` columns of a row flip exactly the cells of that row under a 1 bit, and the collision grows by whether one
of them was set before. -/
theorem drawColumns_spec (b : Byte) (vx : Nat) (y : Fin 32) (acc : Display × Bool) {n : Nat} (hn : n ≤ 8) :
    (∀ cx cy, (drawColumns b vx y acc n).1.cell cx cy =
      (acc.1.cell cx cy ^^ decide (cy = y ∧ ∃ k, k < n ∧ cx.val = (vx + k) % 64 ∧ b.getLsbD (7 - k) = true))) ∧
    ((drawColumns b vx y acc n).2 = true ↔
      acc.2 = true ∨ ∃ k, k < n ∧ b.getLsbD (7 - k) = true ∧ acc.1.cell (wrapX (vx + k)) y = true) := by
  induction n with
  | zero => simp [drawColumns]
  | succ n ih =>
    obtain ⟨ih1, ih2⟩ := ih (by omega)
    cases hb : b.getLsbD (7 - n) with
    | false =>
      have e : drawColumns b vx y acc (n + 1) = drawColumns b vx y acc n := by simp [drawColumns, hb]
      rw [e]
      refine ⟨fun cx cy => ?_, ?_⟩
      · rw [ih1]; congr 2; simp only [eq_iff_iff]
        refine and_congr_right fun _ => ⟨fun ⟨k, hk, h⟩ => ⟨k, by omega, h⟩, fun ⟨k, hk, h⟩ => ⟨k, ?_, h⟩⟩
        have : k ≠ n := fun e => by rw [e, hb] at h; exact absurd h.2 (by simp)
        omega
      · rw [ih2]
        refine or_congr_right ⟨fun ⟨k, hk, h⟩ => ⟨k, by omega, h⟩, fun ⟨k, hk, h⟩ => ⟨k, ?_, h⟩⟩
        have : k ≠ n := fun e => by rw [e, hb] at h; exact absurd h.1 (by simp)
        omega
    | true =>
      have hfresh : (drawColumns b vx y acc n).1.cell (wrapX (vx + n)) y = acc.1.cell (wrapX (vx + n)) y := by
        rw [ih1]
        have : ¬ (y = y ∧ ∃ k, k < n ∧ (wrapX (vx + n)).val = (vx + k) % 64 ∧ b.getLsbD (7 - k) = true) := by
          rintro ⟨-, k, hk, h, -⟩
          simp only [wrapX] at h
          omega
        rw [decide_eq_false this, Bool.xor_false]
      have e : drawColumns b vx y acc (n + 1) =
          (((drawColumns b vx y acc n).1.toggle (wrapX (vx + n)) y).1,
            ((drawColumns b vx y acc n).2 || ((drawColumns b vx y acc n).1.toggle (wrapX (vx + n)) y).2)) := by
        simp [drawColumns, hb]
      rw [e]
      refine ⟨fun cx cy => ?_, ?_⟩
      · simp only [Display.toggle, cell_set]
        by_cases hc : cx = wrapX (vx + n) ∧ cy = y
        · rw [if_pos hc]
          obtain ⟨rfl, rfl⟩ := hc
          rw [hfresh]
          have : cy = cy ∧ ∃ k, k < n + 1 ∧ (wrapX (vx + n)).val = (vx + k) % 64 ∧ b.getLsbD (7 - k) = true :=
            ⟨rfl, n, by omega, rfl, hb⟩
          rw [decide_eq_true this, Bool.xor_true]
        · rw [if_neg hc, ih1]; congr 2; simp only [eq_iff_iff]
          refine and_congr_right fun hy => ⟨fun ⟨k, hk, h⟩ => ⟨k, by omega, h⟩, fun ⟨k, hk, h⟩ => ⟨k, ?_, h⟩⟩
          have : k ≠ n := fun e => hc ⟨Fin.ext (by rw [h.1, e]; rfl), hy⟩
          omega
      · simp only [Display.toggle, Bool.or_eq_true]
        rw [hfresh, ih2, or_assoc]
        refine or_congr_right ⟨?_, ?_⟩
        · rintro (⟨k, hk, h⟩ | h)
          · exact ⟨k, by omega, h⟩
          · exact ⟨n, by omega, hb, h⟩
        · rintro ⟨k, hk, h⟩
          by_cases hkn : k = n
          · subst hkn; exact .inr h.2
          · exact .inl ⟨k, by omega, h⟩

end Sys2Proof.Machine
end

