-- ==== Sys2Proof/Laws/PerInstr.lean ====
section
/-! SUPPORT. Every instruction has its row of the decode table: one lemma per constructor (30_encoding.md R56). -/
namespace Sys2Proof.Laws.RowMatch

/-- Some entry of the decode table accepts the instruction's opcode and builds the instruction from its fields. -/
def Statement (i : Instr) : Prop := ∃ r ∈ decodeTable, r.accepts (encode i) = true ∧ r.build (encode i) = i

/-- The entry at index `k` of the table, and what it needs. -/
theorem of_row {i : Instr} (k : Nat) {r : DecodeRow} (hk : decodeTable[k]? = some r)
    (ha : (encode i &&& r.mask == r.value) = true) (hb : r.build (encode i) = i) : Statement i :=
  ⟨r, List.mem_of_getElem? hk, ha, hb⟩

theorem accepts_formFA {h : BitVec 4} {nnn : Addr} {v : Opcode} (hv : v.toNat = h.toNat * 4096) :
    (formFA h nnn &&& 0xF000#16 == v) = true := by
  rw [accepts_F000, (fields_formFA h nnn).2]; simp only [decide_eq_true_eq]; omega

theorem accepts_formFXK {h : BitVec 4} {x : Reg} {nn : Byte} {v : Opcode} (hv : v.toNat = h.toNat * 4096) :
    (formFXK h x nn &&& 0xF000#16 == v) = true := by
  rw [accepts_F000, (fields_formFXK h x nn).2.2.1]; simp only [decide_eq_true_eq]; omega

theorem accepts_formFXK_low {h : BitVec 4} {x : Reg} {nn : Byte} {v : Opcode}
    (hv : v.toNat = h.toNat * 4096 + nn.toNat) : (formFXK h x nn &&& 0xF0FF#16 == v) = true := by
  have := nn.isLt
  rw [accepts_F0FF, (fields_formFXK h x nn).2.2.1, (fields_formFXK h x nn).2.2.2]
  simp only [decide_eq_true_eq]; omega

theorem accepts_formFXY {h : BitVec 4} {x y : Reg} {n : Fin 16} {v : Opcode} (hv : v.toNat = h.toNat * 4096) :
    (formFXY h x y n &&& 0xF000#16 == v) = true := by
  rw [accepts_F000, (fields_formFXY h x y n).2.2.2.1]; simp only [decide_eq_true_eq]; omega

theorem accepts_formFXY_low {h : BitVec 4} {x y : Reg} {n : Fin 16} {v : Opcode}
    (hv : v.toNat = h.toNat * 4096 + n.val) : (formFXY h x y n &&& 0xF00F#16 == v) = true := by
  have := n.isLt
  rw [accepts_F00F, (fields_formFXY h x y n).2.2.2.1, (fields_formFXY h x y n).2.2.2.2]
  simp only [decide_eq_true_eq]; omega

theorem cls : Statement .cls := of_row 0 rfl rfl rfl

theorem ret : Statement .ret := of_row 1 rfl rfl rfl

theorem sys (nnn : Addr) : Statement (.sys nnn) :=
  of_row 2 rfl (accepts_formFA rfl) (congrArg Instr.sys (fields_formFA _ nnn).1)

theorem jp (nnn : Addr) : Statement (.jp nnn) :=
  of_row 3 rfl (accepts_formFA rfl) (congrArg Instr.jp (fields_formFA _ nnn).1)

theorem call (nnn : Addr) : Statement (.call nnn) :=
  of_row 4 rfl (accepts_formFA rfl) (congrArg Instr.call (fields_formFA _ nnn).1)

theorem seImm (x : Reg) (nn : Byte) : Statement (.seImm x nn) :=
  of_row 5 rfl (accepts_formFXK rfl) (congrArg₂ Instr.seImm (fields_formFXK _ x nn).1 (fields_formFXK _ x nn).2.1)

theorem sneImm (x : Reg) (nn : Byte) : Statement (.sneImm x nn) :=
  of_row 6 rfl (accepts_formFXK rfl) (congrArg₂ Instr.sneImm (fields_formFXK _ x nn).1 (fields_formFXK _ x nn).2.1)

theorem seReg (x y : Reg) : Statement (.seReg x y) :=
  of_row 7 rfl (accepts_formFXY_low rfl) (congrArg₂ Instr.seReg (fields_formFXY _ x y _).1 (fields_formFXY _ x y _).2.1)

theorem ldImm (x : Reg) (nn : Byte) : Statement (.ldImm x nn) :=
  of_row 8 rfl (accepts_formFXK rfl) (congrArg₂ Instr.ldImm (fields_formFXK _ x nn).1 (fields_formFXK _ x nn).2.1)

theorem addImm (x : Reg) (nn : Byte) : Statement (.addImm x nn) :=
  of_row 9 rfl (accepts_formFXK rfl) (congrArg₂ Instr.addImm (fields_formFXK _ x nn).1 (fields_formFXK _ x nn).2.1)

theorem ldReg (x y : Reg) : Statement (.ldReg x y) :=
  of_row 10 rfl (accepts_formFXY_low rfl) (congrArg₂ Instr.ldReg (fields_formFXY _ x y _).1 (fields_formFXY _ x y _).2.1)

theorem orReg (x y : Reg) : Statement (.orReg x y) :=
  of_row 11 rfl (accepts_formFXY_low rfl) (congrArg₂ Instr.orReg (fields_formFXY _ x y _).1 (fields_formFXY _ x y _).2.1)

theorem andReg (x y : Reg) : Statement (.andReg x y) :=
  of_row 12 rfl (accepts_formFXY_low rfl) (congrArg₂ Instr.andReg (fields_formFXY _ x y _).1 (fields_formFXY _ x y _).2.1)

theorem xorReg (x y : Reg) : Statement (.xorReg x y) :=
  of_row 13 rfl (accepts_formFXY_low rfl) (congrArg₂ Instr.xorReg (fields_formFXY _ x y _).1 (fields_formFXY _ x y _).2.1)

theorem addReg (x y : Reg) : Statement (.addReg x y) :=
  of_row 14 rfl (accepts_formFXY_low rfl) (congrArg₂ Instr.addReg (fields_formFXY _ x y _).1 (fields_formFXY _ x y _).2.1)

theorem sub (x y : Reg) : Statement (.sub x y) :=
  of_row 15 rfl (accepts_formFXY_low rfl) (congrArg₂ Instr.sub (fields_formFXY _ x y _).1 (fields_formFXY _ x y _).2.1)

theorem shr (x y : Reg) : Statement (.shr x y) :=
  of_row 16 rfl (accepts_formFXY_low rfl) (congrArg₂ Instr.shr (fields_formFXY _ x y _).1 (fields_formFXY _ x y _).2.1)

theorem subn (x y : Reg) : Statement (.subn x y) :=
  of_row 17 rfl (accepts_formFXY_low rfl) (congrArg₂ Instr.subn (fields_formFXY _ x y _).1 (fields_formFXY _ x y _).2.1)

theorem shl (x y : Reg) : Statement (.shl x y) :=
  of_row 18 rfl (accepts_formFXY_low rfl) (congrArg₂ Instr.shl (fields_formFXY _ x y _).1 (fields_formFXY _ x y _).2.1)

theorem sneReg (x y : Reg) : Statement (.sneReg x y) :=
  of_row 19 rfl (accepts_formFXY_low rfl) (congrArg₂ Instr.sneReg (fields_formFXY _ x y _).1 (fields_formFXY _ x y _).2.1)

theorem ldI (nnn : Addr) : Statement (.ldI nnn) :=
  of_row 20 rfl (accepts_formFA rfl) (congrArg Instr.ldI (fields_formFA _ nnn).1)

theorem jpV0 (nnn : Addr) : Statement (.jpV0 nnn) :=
  of_row 21 rfl (accepts_formFA rfl) (congrArg Instr.jpV0 (fields_formFA _ nnn).1)

theorem rnd (x : Reg) (nn : Byte) : Statement (.rnd x nn) :=
  of_row 22 rfl (accepts_formFXK rfl) (congrArg₂ Instr.rnd (fields_formFXK _ x nn).1 (fields_formFXK _ x nn).2.1)

theorem drw (x y : Reg) (n : Fin 16) : Statement (.drw x y n) := by
  refine of_row 23 rfl (accepts_formFXY rfl) ?_
  obtain ⟨hx, hy, hn, -⟩ := fields_formFXY 0xD x y n
  show Instr.drw (fieldX (formFXY 0xD x y n)) (fieldY (formFXY 0xD x y n)) (fieldN (formFXY 0xD x y n)) = _
  rw [hx, hy, hn]

theorem skp (x : Reg) : Statement (.skp x) :=
  of_row 24 rfl (accepts_formFXK_low rfl) (congrArg Instr.skp (fields_formFXK _ x _).1)

theorem sknp (x : Reg) : Statement (.sknp x) :=
  of_row 25 rfl (accepts_formFXK_low rfl) (congrArg Instr.sknp (fields_formFXK _ x _).1)

theorem ldVxDt (x : Reg) : Statement (.ldVxDt x) :=
  of_row 26 rfl (accepts_formFXK_low rfl) (congrArg Instr.ldVxDt (fields_formFXK _ x _).1)

theorem ldVxK (x : Reg) : Statement (.ldVxK x) :=
  of_row 27 rfl (accepts_formFXK_low rfl) (congrArg Instr.ldVxK (fields_formFXK _ x _).1)

theorem ldDtVx (x : Reg) : Statement (.ldDtVx x) :=
  of_row 28 rfl (accepts_formFXK_low rfl) (congrArg Instr.ldDtVx (fields_formFXK _ x _).1)

theorem ldStVx (x : Reg) : Statement (.ldStVx x) :=
  of_row 29 rfl (accepts_formFXK_low rfl) (congrArg Instr.ldStVx (fields_formFXK _ x _).1)

theorem addI (x : Reg) : Statement (.addI x) :=
  of_row 30 rfl (accepts_formFXK_low rfl) (congrArg Instr.addI (fields_formFXK _ x _).1)

theorem ldF (x : Reg) : Statement (.ldF x) :=
  of_row 31 rfl (accepts_formFXK_low rfl) (congrArg Instr.ldF (fields_formFXK _ x _).1)

theorem ldB (x : Reg) : Statement (.ldB x) :=
  of_row 32 rfl (accepts_formFXK_low rfl) (congrArg Instr.ldB (fields_formFXK _ x _).1)

theorem stRegs (x : Reg) : Statement (.stRegs x) :=
  of_row 33 rfl (accepts_formFXK_low rfl) (congrArg Instr.stRegs (fields_formFXK _ x _).1)

theorem ldRegs (x : Reg) : Statement (.ldRegs x) :=
  of_row 34 rfl (accepts_formFXK_low rfl) (congrArg Instr.ldRegs (fields_formFXK _ x _).1)

end Sys2Proof.Laws.RowMatch
end

