-- ==== Sys2Proof/Laws/Step.lean ====
section
/-! SUPPORT. What a step is, by whose turn it is; when it is the interpreter's; and what the host's turn can be. -/
namespace Sys2Proof.Machine

theorem step_host {s : State} (h : s.batch = none) : step s = .next s.takeInput := by
  simp [step, State.turn, h]

theorem step_keypad {s : State} {n : Nat} (h : s.batch = some n) (hk : s.keyDue = true) :
    step s = .next s.takeInput := by simp [step, State.turn, h, hk]

theorem step_interpreter {s : State} {n : Nat} (hr : s.running = true) (h : s.batch = some (n + 1))
    (hk : s.keyDue = false) : step s = cycle s.beginCycle := by simp [step, State.turn, h, hk, hr]

theorem step_clock {s : State} {n : Nat} (h : s.batch = some n) (hk : s.keyDue = false)
    (hn : n = 0 ∨ s.running = false) : step s = .next s.endTick := by
  rcases hn with rfl | hr <;> simp [step, State.turn, *]

/-- Every step is one of three: an input is taken, between ticks or as a key change inside one; a cycle runs; a tick ends. -/
theorem step_cases (s : State) :
    (step s = .next s.takeInput ∧ (s.batch = none ∨ s.keyDue = true)) ∨
    (∃ n, step s = cycle s.beginCycle ∧ s.running = true ∧ s.batch = some (n + 1) ∧ s.keyDue = false) ∨
    (∃ n, step s = .next s.endTick ∧ s.batch = some n ∧ s.keyDue = false ∧ (n = 0 ∨ s.running = false)) := by
  cases hb : s.batch with
  | none => exact .inl ⟨step_host hb, .inl rfl⟩
  | some n =>
    cases hk : s.keyDue with
    | true => exact .inl ⟨step_keypad hb hk, .inr rfl⟩
    | false =>
      by_cases h : n = 0 ∨ s.running = false
      · exact .inr (.inr ⟨n, step_clock hb hk h, rfl, rfl, h⟩)
      · obtain ⟨m, rfl⟩ : ∃ m, n = m + 1 := ⟨n - 1, by omega⟩
        have hr : s.running = true := by simpa using (not_or.mp h).2
        exact .inr (.inl ⟨m, step_interpreter hr hb hk, hr, rfl, rfl⟩)

/-- A key change that is due is the next input. -/
theorem keyDue_inputs {s : State} (h : s.keyDue = true) :
    ∃ k pressed rest, s.inputs = ⟨0, .setKey k pressed⟩ :: rest := by
  unfold State.keyDue at h
  split at h
  · rename_i k pressed rest heq; exact ⟨k, pressed, rest, heq⟩
  · cases h

/-- Taking the oldest input carries out its operation and leaves the rest to come. -/
theorem takeInput_cons {s : State} {w : Nat} {op : HostOp} {rest : List HostInput} (h : s.inputs = ⟨w, op⟩ :: rest) :
    s.takeInput = { s with inputs := rest }.deliver op := by
  unfold State.takeInput
  rw [h]

/-- A key change at the head of the inputs with no cycle to wait is due. -/
theorem keyDue_of_inputs {s : State} {k : Nat} {pressed : Bool} {rest : List HostInput}
    (h : s.inputs = ⟨0, .setKey k pressed⟩ :: rest) : s.keyDue = true := by
  simp [State.keyDue, h]

/-- Taking an input: nothing when there is none, else the oldest one's operation. -/
theorem takeInput_cases (s : State) :
    (s.inputs = [] ∧ s.takeInput = s) ∨
    ∃ w op rest, s.inputs = ⟨w, op⟩ :: rest ∧ s.takeInput = { s with inputs := rest }.deliver op := by
  unfold State.takeInput
  cases h : s.inputs with
  | nil => exact .inl ⟨rfl, rfl⟩
  | cons e rest => exact .inr ⟨e.wait, e.op, rest, rfl, rfl⟩

/-- A cycle is one of three: a failed fetch, a failed decode, or the instruction fetched. -/
theorem cycle_cases (s : State) :
    (s.fetch = none ∧ cycle s = .next (s.raiseFatal .invalidOpcodeFetch 0x0000)) ∨
    (∃ op, s.fetch = some op ∧ decodeWord op = .error (.unknownInstruction op) ∧
      cycle s = .next (s.raiseFatal .unknownInstruction op)) ∨
    (∃ op i, s.fetch = some op ∧ decodeWord op = .ok i ∧ cycle s = exec i s) := by
  unfold cycle
  cases hf : s.fetch with
  | none => exact .inl ⟨rfl, rfl⟩
  | some op =>
    simp only [decode_bytes]
    cases hd : decodeWord op with
    | ok i => exact .inr (.inr ⟨op, i, rfl, hd, rfl⟩)
    | error e =>
      refine .inr (.inl ⟨op, rfl, ?_, rfl⟩)
      unfold decodeWord at hd ⊢
      split at hd
      · cases hd
      · simp

end Sys2Proof.Machine
end

