-- ==== Sys2Proof/Tests/Slice0.lean ====
section
/-! SUPPORT. The model's own tests. Expected values come from the spec: words from the patterns of 30_encoding.md R56,
results from 95_test_vectors.md (the vector is named) or worked out by hand from the rule named. After them, for each
statement of Obligations.lean that has hypotheses, a concrete state and operands that meet them. -/
namespace Sys2Proof.Tests

open Sys2Proof.Machine

/-! ### WellFormed: each check refuses its ill-formed term -/

theorem test_wf_refuses_sys_0E0 : (Instr.sys 0x0E0).wellFormed = false := by decide
theorem test_wf_refuses_sys_0EE : (Instr.sys 0x0EE).wellFormed = false := by decide
theorem test_wf_allows_sys_0E1 : (Instr.sys 0x0E1).wellFormed = true := by decide

/-! ### Decoding: every constructor, from a word written out from its pattern in R56 -/

theorem test_decode_control :
    decodeWord 0x00E0 = .ok .cls ∧ decodeWord 0x00EE = .ok .ret ∧ decodeWord 0x0ABC = .ok (.sys 0xABC) ∧
    decodeWord 0x1ABC = .ok (.jp 0xABC) ∧ decodeWord 0x2ABC = .ok (.call 0xABC) ∧
    decodeWord 0x3A7B = .ok (.seImm 0xA 0x7B) ∧ decodeWord 0x4A7B = .ok (.sneImm 0xA 0x7B) ∧
    decodeWord 0x5AB0 = .ok (.seReg 0xA 0xB) ∧ decodeWord 0x9AB0 = .ok (.sneReg 0xA 0xB) ∧
    decodeWord 0xBABC = .ok (.jpV0 0xABC) := by decide

theorem test_decode_alu :
    decodeWord 0x6A7B = .ok (.ldImm 0xA 0x7B) ∧ decodeWord 0x7A7B = .ok (.addImm 0xA 0x7B) ∧
    decodeWord 0x8AB0 = .ok (.ldReg 0xA 0xB) ∧ decodeWord 0x8AB1 = .ok (.orReg 0xA 0xB) ∧
    decodeWord 0x8AB2 = .ok (.andReg 0xA 0xB) ∧ decodeWord 0x8AB3 = .ok (.xorReg 0xA 0xB) ∧
    decodeWord 0x8AB4 = .ok (.addReg 0xA 0xB) ∧ decodeWord 0x8AB5 = .ok (.sub 0xA 0xB) ∧
    decodeWord 0x8AB6 = .ok (.shr 0xA 0xB) ∧ decodeWord 0x8AB7 = .ok (.subn 0xA 0xB) ∧
    decodeWord 0x8ABE = .ok (.shl 0xA 0xB) ∧ decodeWord 0xCA7B = .ok (.rnd 0xA 0x7B) := by decide

theorem test_decode_index_memory :
    decodeWord 0xAABC = .ok (.ldI 0xABC) ∧ decodeWord 0xFA1E = .ok (.addI 0xA) ∧
    decodeWord 0xFA29 = .ok (.ldF 0xA) ∧ decodeWord 0xFA33 = .ok (.ldB 0xA) ∧
    decodeWord 0xFA55 = .ok (.stRegs 0xA) ∧ decodeWord 0xFA65 = .ok (.ldRegs 0xA) := by decide

theorem test_decode_display_keypad_timers :
    decodeWord 0xDABC = .ok (.drw 0xA 0xB 0xC) ∧ decodeWord 0xEA9E = .ok (.skp 0xA) ∧
    decodeWord 0xEAA1 = .ok (.sknp 0xA) ∧ decodeWord 0xFA07 = .ok (.ldVxDt 0xA) ∧
    decodeWord 0xFA0A = .ok (.ldVxK 0xA) ∧ decodeWord 0xFA15 = .ok (.ldDtVx 0xA) ∧
    decodeWord 0xFA18 = .ok (.ldStVx 0xA) := by decide

/-- The illegal words of vectors V21 to V27, and one byte alone (R52). -/
theorem test_decode_refuses :
    decodeWord 0x5121 = .error (.unknownInstruction 0x5121) ∧ decodeWord 0x800F = .error (.unknownInstruction 0x800F) ∧
    decodeWord 0x8008 = .error (.unknownInstruction 0x8008) ∧ decodeWord 0x9121 = .error (.unknownInstruction 0x9121) ∧
    decodeWord 0xE0FF = .error (.unknownInstruction 0xE0FF) ∧ decodeWord 0xF000 = .error (.unknownInstruction 0xF000) ∧
    decodeWord 0xF0FF = .error (.unknownInstruction 0xF0FF) ∧ decode [0x12] = .error .truncated := by decide

/-- Memory holds the high byte first (R37). -/
theorem test_decode_bytes : decode [0xA2, 0x2A, 0x60] = .ok (.ldI 0x22A, [0x60]) := by decide

theorem test_decodeTableWord : decodeTableWord 16 0xA22A = some (.ldI 0x22A) ∧ decodeTableWord 16 0x5121 = none := by
  decide

/-! ### One cycle -/

/-- The state after reset, running, with one cycle of a batch left. -/
def base : State := { State.reset with running := true, batch := some 1 }

/-- Put `op` at pc, take one step from there, and say whether the next state is as `p` says. -/
def runs (op : Opcode) (s : State) (p : State → Bool) : Bool :=
  match step (s.placeWord op) with
  | .next t => p t
  | .fault _ => false
  | .refused _ => false

/-! Control transfer (V1 to V20) -/

/-- V1. -/
theorem test_call : runs 0x2210 (base.setPc 0x204)
    (fun t => t.stack[0] == 0x204 && t.sp == 1 && t.pc == 0x210) = true := by decide
/-- V4. -/
theorem test_call_overflow : runs 0x2210 { base with pc := 0x204, sp := 16 }
    (fun t => t.err == some ⟨.callStackOverflow, 0x204, 0x2210⟩ && t.sp == 16 && t.pc == 0x204 && !t.running) = true := by
  decide
/-- V5: the return lands on 0x1000, with the overflow bit set. -/
theorem test_ret : runs 0x00EE { base with pc := 0x212, sp := 1, stack := base.stack.set 0 0xFFE }
    (fun t => t.sp == 0 && t.pc == 0x1000 && t.stack[0] == 0xFFE) = true := by decide
/-- V3. -/
theorem test_ret_underflow : runs 0x00EE (base.setPc 0x212)
    (fun t => t.err == some ⟨.callStackUnderflow, 0x212, 0x00EE⟩ && t.pc == 0x212 && !t.running) = true := by decide
/-- V6. -/
theorem test_jp : runs 0x1234 base (fun t => t.pc == 0x234) = true := by decide
/-- V16: the sum 0x10FE is masked to 12 bits. -/
theorem test_jpV0 : runs 0xBFFF (base.setV 0 0xFF) (fun t => t.pc == 0x0FE) = true := by decide
/-- V15 with `BNNN_REF_OFFSET`. -/
theorem test_jpV0_offset :
    runs 0xB300 { base.setV 0 0x04 with cfg := { base.cfg with bnnnRefOffset := true } } (fun t => t.pc == 0x306) = true := by
  decide
/-- V17. -/
theorem test_sys : runs 0x0123 base
    (fun t => t.pc == 0x202 && t.outputs == [.diagnostic 0x200 0x0123] && t.running) = true := by decide
/-- V8. -/
theorem test_seImm : runs 0x3310 (base.setV 3 0x10) (fun t => t.pc == 0x204) = true := by decide
/-- V10. -/
theorem test_sneImm : runs 0x4310 (base.setV 3 0x10) (fun t => t.pc == 0x202) = true := by decide
/-- V11. -/
theorem test_seReg : runs 0x5120 ((base.setV 1 7).setV 2 7) (fun t => t.pc == 0x204) = true := by decide
/-- V13. -/
theorem test_sneReg : runs 0x9120 ((base.setV 1 7).setV 2 8) (fun t => t.pc == 0x204) = true := by decide

/-! Registers and the ALU (V31 to V64) -/

/-- V32. -/
theorem test_ldImm : runs 0x6F55 base (fun t => t.getV vf == 0x55 && t.pc == 0x202) = true := by decide
/-- V33. -/
theorem test_addImm : runs 0x7002 ((base.setV 0 0xFF).setV vf 0x07)
    (fun t => t.getV 0 == 0x01 && t.getV vf == 0x07) = true := by decide
/-- V35. -/
theorem test_ldReg : runs 0x8010 (base.setV 1 0x42) (fun t => t.getV 0 == 0x42) = true := by decide
/-- V36. -/
theorem test_orReg : runs 0x8011 (((base.setV 0 0x0F).setV 1 0xF0).setV vf 0x55)
    (fun t => t.getV 0 == 0xFF && t.getV vf == 0x55) = true := by decide
/-- V38. -/
theorem test_andReg : runs 0x8012 ((base.setV 0 0x3C).setV 1 0x0F) (fun t => t.getV 0 == 0x0C) = true := by decide
/-- V39. -/
theorem test_xorReg : runs 0x8013 ((base.setV 0 0x3C).setV 1 0x0F) (fun t => t.getV 0 == 0x33) = true := by decide
/-- V42: the sum is exactly 256. -/
theorem test_addReg : runs 0x8014 ((base.setV 0 0x80).setV 1 0x80)
    (fun t => t.getV 0 == 0x00 && t.getV vf == 1) = true := by decide
/-- V46: X = F, and the flag stays. -/
theorem test_addReg_vf : runs 0x8F14 ((base.setV vf 0x01).setV 1 0x01) (fun t => t.getV vf == 0) = true := by decide
/-- V48. -/
theorem test_sub : runs 0x8015 ((base.setV 0 0x05).setV 1 0x07)
    (fun t => t.getV 0 == 0xFE && t.getV vf == 0) = true := by decide
/-- V50: equal operands, no borrow. -/
theorem test_sub_equal : runs 0x8015 ((base.setV 0 0x07).setV 1 0x07)
    (fun t => t.getV 0 == 0x00 && t.getV vf == 1) = true := by decide
/-- V58 with `SHIFT_SRC` = VY. -/
theorem test_shr_vy :
    runs 0x8236 { (base.setV 2 0x05).setV 3 0x08 with cfg := { base.cfg with shiftSrc := .vy } }
      (fun t => t.getV 2 == 0x04 && t.getV vf == 0) = true := by decide
/-- V57: X = F, and the result stays. -/
theorem test_shr_vf : runs 0x8F06 (base.setV vf 0x03) (fun t => t.getV vf == 0x01) = true := by decide
/-- V52. -/
theorem test_subn : runs 0x8017 ((base.setV 0 0x07).setV 1 0x05)
    (fun t => t.getV 0 == 0xFE && t.getV vf == 0) = true := by decide
/-- V59. -/
theorem test_shl : runs 0x820E (base.setV 2 0x81) (fun t => t.getV 2 == 0x02 && t.getV vf == 1) = true := by decide
/-- V63: whatever the oracle answers. -/
theorem test_rnd_empty : runs 0xC500 (base.setV 5 0xAA) (fun t => t.getV 5 == 0x00 && t.draws == 1) = true := by decide

/-! The index register and memory (V65 to V80) -/

/-- V65. -/
theorem test_ldI : runs 0xA22A base (fun t => t.i == 0x22A) = true := by decide
/-- V67: 0xFFF does not exceed 0xFFF. -/
theorem test_addI : runs 0xF11E ((base.setV 1 0x01).setI 0xFFE) (fun t => t.i == 0xFFF && t.getV vf == 0) = true := by
  decide
/-- V69: X = F adds the old VF. -/
theorem test_addI_vf : runs 0xFF1E ((base.setV vf 0x01).setI 0xFFF) (fun t => t.i == 0x000 && t.getV vf == 1) = true := by
  decide
/-- V72: the digit is not masked. -/
theorem test_ldF : runs 0xF029 (base.setV 0 0xFF) (fun t => t.i == 0x4FB) = true := by decide
/-- V75: the addresses wrap, and the font's first byte is overwritten. -/
theorem test_ldB : runs 0xF533 ((base.setV 5 0xC7).setI 0xFFE)
    (fun t => t.memRead 0xFFE == 1 && t.memRead 0xFFF == 9 && t.memRead 0x000 == 9 && t.i == 0xFFE) = true := by decide
/-- V77. -/
theorem test_stRegs : runs 0xF255 ((((base.setV 0 1).setV 1 2).setV 2 3).setI 0xFFF)
    (fun t => t.memRead 0xFFF == 1 && t.memRead 0x000 == 2 && t.memRead 0x001 == 3 && t.memRead 0x002 == 0x90 &&
      t.i == 0xFFF) = true := by decide
/-- V79: the first sixteen font bytes, VF among them. -/
theorem test_ldRegs : runs 0xFF65 base
    (fun t => t.getV 0 == 0xF0 && t.getV 5 == 0x20 && t.getV 0xE == 0xF0 && t.getV vf == 0xF0 && t.i == 0) = true := by
  decide

/-! The display (V81 to V87) -/

/-- V81: wrapped on both axes. -/
theorem test_drw_wraps :
    runs 0xD012 (((((base.setV 0 62).setV 1 31).setI 0x300).memWrite 0x300 0xC0).memWrite 0x301 0x81)
      (fun t => t.disp.cell 62 31 && t.disp.cell 63 31 && t.disp.cell 62 0 && t.disp.cell 5 0 && !t.disp.cell 0 31 &&
        t.getV vf == 0) = true := by decide
/-- V82, from one set cell: the collision clears it. -/
theorem test_drw_collides :
    runs 0xD011 (((((base.setV 0 62).setV 1 31).setI 0x400).memWrite 0x400 0x80).setDisp
        (Display.clear.toggle 62 31).1)
      (fun t => !t.disp.cell 62 31 && t.getV vf == 1) = true := by decide
/-- V87, from one set cell. -/
theorem test_cls : runs 0x00E0 ((base.setV vf 9).setDisp (Display.clear.toggle 5 2).1)
    (fun t => !t.disp.cell 5 2 && t.getV vf == 9 && t.pc == 0x202) = true := by decide

/-! The keypad and the timers (V88 to V98) -/

/-- A state with key `k` pressed. -/
def pressing (k : Fin 16) (s : State) : State := { s with key := s.key.set k.val true }

/-- V88. -/
theorem test_skp : runs 0xE59E (pressing 5 (base.setV 5 5)) (fun t => t.pc == 0x204) = true := by decide
/-- V90: an index above 15 names no key. -/
theorem test_skp_no_key : runs 0xE59E (pressing 5 (base.setV 5 0x15)) (fun t => t.pc == 0x202) = true := by decide
/-- V91. -/
theorem test_sknp : runs 0xE5A1 (base.setV 5 5) (fun t => t.pc == 0x204) = true := by decide
/-- V93. -/
theorem test_ldVxK_none : runs 0xF50A (base.setPc 0x220) (fun t => t.pc == 0x220 && t.getV 5 == 0) = true := by decide
/-- V94. -/
theorem test_ldVxK : runs 0xF50A (pressing 7 (pressing 0xC (base.setPc 0x220)))
    (fun t => t.getV 5 == 0x07 && t.pc == 0x222) = true := by decide
/-- V96. -/
theorem test_ldVxDt : runs 0xF307 (base.setDt 0x3C) (fun t => t.getV 3 == 0x3C) = true := by decide
/-- V97. -/
theorem test_ldDtVx : runs 0xF015 (base.setV 0 5) (fun t => t.dt == 5 && t.st == 0) = true := by decide
/-- V98. -/
theorem test_ldStVx : runs 0xF018 (base.setV 0 2) (fun t => t.st == 2 && t.dt == 0) = true := by decide

/-! ### Errors, ticks and the host (V28, T1 to T5, H1 to H7) -/

/-- One step's next state is as `p` says. -/
def stepGives (s : State) (p : State → Bool) : Bool :=
  match step s with
  | .next t => p t
  | .fault _ => false
  | .refused _ => false

/-- A state with one host operation to come, between ticks. -/
def offered (op : HostOp) (s : State) : State := { s with batch := none, inputs := [⟨0, op⟩] }

/-- V28. -/
theorem test_fetch_error : stepGives (base.setPc 0xFFF)
    (fun t => t.err == some ⟨.invalidOpcodeFetch, 0xFFF, 0x0000⟩ && !t.running) = true := by decide
/-- V21. -/
theorem test_unknown_instruction : runs 0x5121 base
    (fun t => t.err == some ⟨.unknownInstruction, 0x200, 0x5121⟩ && t.pc == 0x200 && !t.running) = true := by decide
/-- V29: an odd pc is legal. -/
theorem test_odd_pc : runs 0x6001 (base.setPc 0xFFD) (fun t => t.getV 0 == 1 && t.pc == 0xFFF) = true := by decide
/-- T1 and T4: a tick counts each timer down once, and not below 0. -/
theorem test_tick : stepGives (offered .tick (base.setDt 5)) (fun t => t.dt == 4 && t.st == 0 && t.batch == some 4) = true := by
  decide
/-- T3: a tick of a stopped run does nothing. -/
theorem test_tick_stopped : stepGives (offered .tick { base.setDt 5 with running := false })
    (fun t => t.dt == 5 && t.batch == none) = true := by decide
/-- T5: the tone is sampled at the end of the tick. -/
theorem test_tone : stepGives { base.setSt 1 with batch := some 0 } (fun t => t.tone && t.batch == none) = true := by
  decide
/-- H1. -/
theorem test_start :
    stepGives (offered .start { (base.setV 0 9).setPc 0x234 with running := false, dt := 7 })
      (fun t => t.running && t.pc == 0x200 && t.getV 0 == 9 && t.dt == 7) = true := by decide
/-- H3. -/
theorem test_stop : stepGives (offered .stop { base.setSt 4 with tone := true })
    (fun t => !t.running && !t.tone && t.st == 4) = true := by decide
/-- H5. -/
theorem test_setKey_refused : stepGives (offered (.setKey 16 true) base) (fun t => t.outputs == [.keyRefused]) = true := by
  decide
/-- A key change falls between two cycles of a batch (R118). -/
theorem test_setKey_inside_tick : stepGives { base with inputs := [⟨0, .setKey 3 true⟩] }
    (fun t => t.key[3] && t.batch == some 1 && t.pc == 0x200) = true := by decide
/-- S6, for a program of three bytes. -/
theorem test_load : stepGives (offered (.load [0x12, 0x34, 0x56]) (base.setV 0 9))
    (fun t => t.memRead 0x200 == 0x12 && t.memRead 0x202 == 0x56 && t.memRead 0x000 == 0xF0 && t.getV 0 == 0 &&
      !t.running && t.pc == 0x200) = true := by decide
/-- R125: right after reset no cycle runs. -/
theorem test_reset_idles : stepGives State.reset (fun t => t == State.reset) = true := by decide
/-- R123, R33: reset clears a register, the display and memory, and keeps the keypad. -/
theorem test_reset : stepGives (offered .reset ((pressing 4 (base.setV 3 1)).memWrite 0x300 1))
    (fun t => t.getV 3 == 0 && t.memRead 0x300 == 0 && t.key[4] && !t.running) = true := by decide
/-- The host's placing of a word: the next step runs it, from the reset state (log 6). -/
theorem test_withFetchWord : stepGives (State.reset.withFetchWord 16 0x6A7B) (fun t => t.getV 0xA == 0x7B) = true := by
  decide

/-! ### Witnesses: a state and operands that meet the hypotheses of each statement that has some -/

theorem witness_DecodeOfEncode : (Instr.sys 0x123).wellFormed = true ∧ (Instr.ldRegs 0xF).wellFormed = true := by decide

theorem witness_EncodeOfDecode : decodeWord 0x8126 = .ok (.shr 1 2) ∧ decodeWord 0xFFFF ≠ .ok .cls := by decide

/-- Both overlaps of the table. -/
theorem witness_FirstMatchingEntryWins :
    ∃ q₀ q₁ r, decodeTable[0]? = some q₀ ∧ decodeTable[1]? = some q₁ ∧ decodeTable[2]? = some r ∧
      (0x00E0 : Opcode) &&& q₀.mask = q₀.value ∧ (0x00E0 : Opcode) &&& r.mask = r.value ∧
      (0x00EE : Opcode) &&& q₁.mask = q₁.value ∧ (0x00EE : Opcode) &&& r.mask = r.value :=
  ⟨_, _, _, rfl, rfl, rfl, by decide⟩

/-- At the last address an instruction can be fetched from. -/
theorem witness_StepRunsTheDecodedInstruction :
    let s := ((base.setPc 0xFFE).memWrite 0xFFE 0x12).memWrite 0xFFF 0x34
    s.running = true ∧ s.batch = some (0 + 1) ∧ s.keyDue = false ∧ s.pc.toNat ≤ 0xFFE ∧
      s.memRead (BitVec.ofNat 12 s.pc.toNat) = 0x12 ∧ s.memRead (BitVec.ofNat 12 (s.pc.toNat + 1)) = 0x34 ∧
      decode [0x12, 0x34] = .ok (.jp 0x234, []) := by decide

/-- Each clause: pc at 0xFFF, an illegal and a legal opcode at 0xFFE, both errors of execution, a stopped run. -/
theorem witness_CycleFetchesDecodesExecutes :
    (base.setPc 0xFFF).pc.toNat + 1 > 0xFFF ∧
    (let s := ((base.setPc 0xFFE).memWrite 0xFFE 0x51).memWrite 0xFFF 0x21
     s.pc.toNat + 1 ≤ 0xFFF ∧ (0x5121 : Opcode).toNat = 256 * (s.memRead 0xFFE).toNat + (s.memRead 0xFFF).toNat ∧
       ∀ r ∈ decodeTable, (0x5121 : Opcode) &&& r.mask ≠ r.value) ∧
    ((base.setPc 0xFFE).pc.toNat + 1 ≤ 0xFFF ∧ decodeWord 0x0000 = .ok (.sys 0) ∧
      (0x0000 : Opcode).toNat = 256 * ((base.setPc 0xFFE).memRead 0xFFE).toNat
        + ((base.setPc 0xFFE).memRead 0xFFF).toNat) ∧
    exec (.call 0x210) { base with sp := 16 } =
      .next (State.raiseFatal { base with sp := 16 } .callStackOverflow 0x2210) ∧
    exec .ret base = .next (base.raiseFatal .callStackUnderflow 0x00EE) ∧ State.reset.running = false :=
  ⟨by decide, by decide, by decide, rfl, rfl, rfl⟩

theorem witness_FatalErrorEntry : (base.setPc 0xFFF).pc.toNat ≥ 0xFFF ∧ (base.setPc 0x1000).pc.toNat ≥ 0xFFF := by decide

/-- Each kind of error is some step's new one. -/
theorem witness_NewErrorsArePrecise :
    base.err = none ∧
    stepGives (base.setPc 0xFFF) (fun t => t.err == some ⟨.invalidOpcodeFetch, 0xFFF, 0x0000⟩) = true ∧
    runs 0x5121 base (fun t => t.err == some ⟨.unknownInstruction, 0x200, 0x5121⟩) = true ∧
    runs 0x2210 { base with sp := 16 } (fun t => t.err == some ⟨.callStackOverflow, 0x200, 0x2210⟩) = true ∧
    runs 0x00EE base (fun t => t.err == some ⟨.callStackUnderflow, 0x200, 0x00EE⟩) = true := by decide

/-- No input, each of the three operations that leave a halted run halted, and a `start` that ends it. -/
theorem witness_HaltedRunStaysHalted :
    (State.reset.Halted ∧ State.reset.inputs = []) ∧
    ((offered .stop State.reset).Halted ∧ (offered .stop State.reset).inputs = [⟨0, .stop⟩]) ∧
    ((offered .tick State.reset).Halted ∧ (offered .tick State.reset).inputs = [⟨0, .tick⟩]) ∧
    ((offered (.setKey 3 true) State.reset).Halted ∧
      (offered (.setKey 3 true) State.reset).inputs = [⟨0, .setKey 3 true⟩]) ∧
    (offered .start State.reset).Halted ∧ stepGives (offered .start State.reset) (fun t => t.running) = true := by
  refine ⟨⟨⟨rfl, rfl⟩, rfl⟩, ⟨⟨rfl, rfl⟩, rfl⟩, ⟨⟨rfl, rfl⟩, rfl⟩, ⟨⟨rfl, rfl⟩, rfl⟩, ⟨rfl, rfl⟩, by decide⟩

theorem witness_TickCountsTimersDownOnce :
    (offered .tick base).batch = none ∧ (offered .tick base).inputs = [⟨0, .tick⟩] ∧
    (offered .tick base).running = true ∧ (offered .tick State.reset).batch = none ∧
    (offered .tick State.reset).inputs = [⟨0, .tick⟩] ∧ (offered .tick State.reset).running = false := by decide

/-- One cycle that goes on (a SYS of empty memory) and one that ends the tick. -/
theorem witness_BatchRunsOneCycleAtATime :
    (base.running = true ∧ base.batch = some (0 + 1) ∧ base.keyDue = false) ∧
    stepGives base (fun t => t.running && t.batch == some 0) = true ∧
    stepGives (base.setPc 0xFFF) (fun t => !t.running && t.batch == none) = true := by decide

/-- No cycle left while running, and cycles left in a run that is stopped. -/
theorem witness_TickEndSamplesTheTone :
    (let s := { base.setSt 1 with batch := some 0 }; s.batch = some 0 ∧ s.keyDue = false) ∧
    (let s := { base.setSt 1 with running := false }; s.batch = some 1 ∧ s.keyDue = false ∧ s.running = false) := by decide

/-- Each timer changes by a tick, by a reset, by a load and by its instruction. -/
theorem witness_TimersChangeOnlyByTickLoadOrWrite :
    (let s := (base.setDt 5).setSt 5
     stepGives (offered .tick s) (fun t => t.dt != s.dt && t.st != s.st) = true ∧
     stepGives (offered .reset s) (fun t => t.dt != s.dt && t.st != s.st) = true ∧
     stepGives (offered (.load []) s) (fun t => t.dt != s.dt && t.st != s.st) = true) ∧
    runs 0xF015 (base.setV 0 5) (fun t => t.dt != 0) = true ∧ runs 0xF018 (base.setV 0 5) (fun t => t.st != 0) = true := by
  decide

theorem witness_StartAndStop : base.running = true ∧ State.reset.running = false := by decide

/-- The longest program that fits, and the first that does not. -/
theorem witness_LoadCopiesTheProgram :
    (List.replicate 3584 (0x12 : Byte)).length ≤ 3584 ∧ 3584 < (List.replicate 3585 (0x12 : Byte)).length := by
  rw [List.length_replicate, List.length_replicate]; omega

/-- The lowest index that is refused, and inside a tick the highest key and that index. -/
theorem witness_SetKeySetsOneKey :
    15 < 16 ∧ base.batch = some 1 ∧
    ({ base with inputs := [⟨0, .setKey 15 true⟩] } : State).inputs = [⟨0, .setKey (15 : Fin 16).val true⟩] ∧
    ({ base with inputs := [⟨0, .setKey 16 true⟩] } : State).inputs = [⟨0, .setKey 16 true⟩] := by decide

/-- Each operation, offered between ticks. -/
theorem witness_StepPerformsTheHostOperation :
    (offered .reset base).batch = none ∧ (offered .reset base).inputs = [⟨0, .reset⟩] ∧
    (offered (.load [0x12]) base).inputs = [⟨0, .load [0x12]⟩] ∧ (offered .start base).inputs = [⟨0, .start⟩] ∧
    (offered .stop base).inputs = [⟨0, .stop⟩] ∧
    (offered (.setKey 15 true) base).inputs = [⟨0, .setKey 15 true⟩] := by decide

/-- The first address after the font, and the last of all. -/
theorem witness_PowerOnIsReset : 80 ≤ (0x050 : Addr).toNat ∧ 80 ≤ (0xFFF : Addr).toNat := by decide

theorem witness_OnlySetKeyChangesTheKeypad :
    stepGives (offered (.setKey 3 true) base) (fun t => t.key[3] != base.key[3]) = true := by decide

/-- An invariant state whose step is a cycle, and one whose step is a tick's beginning. -/
theorem witness_EveryStepKeepsTheInvariant :
    base.Inv ∧ (∃ t, step base = .next t) ∧ (offered .tick base).Inv ∧ ∃ t, step (offered .tick base) = .next t :=
  ⟨⟨⟨List.Pairwise.nil, fun _ h => nomatch h⟩, by decide, by decide, by decide, by decide⟩, ⟨_, rfl⟩,
    ⟨⟨List.Pairwise.nil, fun _ h => nomatch h⟩, by decide, by decide, by decide, by decide⟩, ⟨_, rfl⟩⟩

/-- JP is none of the writers that the clauses name. -/
theorem witness_EachPartHasItsWriters :
    (∃ t, exec (.jp 0x234) base = .next t) ∧ (∀ x, Instr.jp 0x234 ≠ .ldB x ∧ Instr.jp 0x234 ≠ .stRegs x) ∧
    (∀ nnn, Instr.jp 0x234 ≠ .ldI nnn) ∧ (∀ x, Instr.jp 0x234 ≠ .addI x ∧ Instr.jp 0x234 ≠ .ldF x) ∧
    Instr.jp 0x234 ≠ .ret ∧ (∀ nnn, Instr.jp 0x234 ≠ .call nnn) ∧ Instr.jp 0x234 ≠ .cls ∧
    (∀ x y n, Instr.jp 0x234 ≠ .drw x y n) ∧ (∀ x, Instr.jp 0x234 ≠ .ldDtVx x) ∧ ∀ x, Instr.jp 0x234 ≠ .ldStVx x :=
  ⟨⟨_, rfl⟩, by simp⟩

theorem witness_OnlyFlagWritersChangeVf :
    ∃ t, exec (.addReg 0 1) ((base.setV 0 0xFF).setV 1 0x01) = .next t ∧
      t.getV vf ≠ ((base.setV 0 0xFF).setV 1 0x01).getV vf := ⟨_, rfl, by decide⟩

/-- One live entry, and another dead one. -/
theorem witness_DeadStackEntriesAreUnobservable :
    (∀ k : Fin 16, k.val < ({ base with sp := 1 } : State).sp.val → (base.stack.set 1 0x300)[k.val] = base.stack[k.val]) ∧
    base.stack.set 1 0x300 ≠ base.stack := by decide

theorem witness_HiddenStateIsNeverRead : ∀ x, Instr.jp 0x234 ≠ .ldStVx x := by simp

theorem witness_NextPcTable :
    (∃ t, exec .ret { base with sp := 1 } = .next t) ∧ 0 < ({ base with sp := 1 } : State).sp.val ∧
    (∃ t, exec (.call 0x210) { base with sp := 15 } = .next t) ∧ ({ base with sp := 15 } : State).sp.val < 16 ∧
    State.reset.running = false := ⟨⟨_, rfl⟩, by decide, ⟨_, rfl⟩, by decide, rfl⟩

theorem witness_SequentialSuccessor :
    (0xFFF : Pc).toNat ≤ 0xFFF ∧ 4 ≤ 4 ∧ State.reset.cfg.pcSeqWrap = false ∧
    ({ State.reset.cfg with pcSeqWrap := true } : Config).pcSeqWrap = true := by decide

/-- The lowest and the highest depth that can return. -/
theorem witness_ReturnResumesAfterTheCall :
    ({ base with sp := 1 } : State).sp.val = (0 : Fin 16).val + 1 ∧
    ({ base with sp := 16 } : State).sp.val = (15 : Fin 16).val + 1 := by decide

theorem witness_ReturnFromEmptyStackUnderflows : base.sp.val = 0 := by decide

/-- The lowest and the highest depth that can call. -/
theorem witness_CallPushesItsOwnAddress :
    base.sp.val = (0 : Fin 16).val ∧ ({ base with sp := 15 } : State).sp.val = (15 : Fin 16).val := by decide

theorem witness_SeventeenthCallOverflows :
    ({ base with sp := 16 } : State).sp.val = 16 ∧ (0x2210 : Opcode).toNat = 0x2000 + (0x210 : Addr).toNat := by decide

/-- The state after the CALL serves as the one before the RET. -/
theorem witness_CallThenReturnComesBack :
    ∃ t u, ({ base with sp := 15 } : State).sp.val < 16 ∧ base.pc.toNat ≤ 0xFFF ∧
      exec (.call 0x210) { base with sp := 15 } = .next t ∧ t.sp = t.sp ∧ t.stack = t.stack ∧
      t.cfg = ({ base with sp := 15 } : State).cfg ∧ exec .ret t = .next u :=
  ⟨_, _, by decide, by decide, rfl, rfl, rfl, rfl, rfl⟩

theorem witness_JumpsLandOnTheirTargets :
    base.cfg.bnnnRefOffset = false ∧ ({ base.cfg with bnnnRefOffset := true } : Config).bnnnRefOffset = true := by decide

theorem witness_SkipsAddTwoMore :
    ∃ x nn y, Instr.skp 1 = .seImm x nn ∨ Instr.skp 1 = .sneImm x nn ∨ Instr.skp 1 = .seReg x y ∨
      Instr.skp 1 = .sneReg x y ∨ Instr.skp 1 = .skp x ∨ Instr.skp 1 = .sknp x :=
  ⟨1, 0, 0, by simp⟩

/-- Key 15 pressed and named, and a register that names no key. -/
theorem witness_KeySkipsReadOneKey :
    (∃ k : Fin 16, ((pressing 15 (base.setV 1 15)).getV 1).toNat = k.val ∧
      (pressing 15 (base.setV 1 15)).key[k.val] = true) ∧
    ¬ ∃ k : Fin 16, ((base.setV 1 16).getV 1).toNat = k.val ∧ (base.setV 1 16).key[k.val] = true := by decide

theorem witness_AddRegistersWithCarry : (0xE : Reg) ≠ vf := by decide

theorem witness_SubtractRegistersWithBorrow : (0 : Reg) ≠ vf := by decide

/-- Both sources. -/
theorem witness_ShiftRegistersByOne :
    (let s := base.setV 2 0x81
     (s.cfg.shiftSrc = .vx → 0x81 = (s.getV 2).toNat) ∧ (s.cfg.shiftSrc = .vy → 0x81 = (s.getV 3).toNat)) ∧
    (let s := { base.setV 3 0x08 with cfg := { base.cfg with shiftSrc := .vy } }
     (s.cfg.shiftSrc = .vx → 0x08 = (s.getV 2).toNat) ∧ (s.cfg.shiftSrc = .vy → 0x08 = (s.getV 3).toNat)) ∧
    (2 : Reg) ≠ vf := by decide

theorem witness_RandomValueIsInRange :
    base.cfg.rndMode = .halfOpen ∧ (0 : Byte).toNat = 0 ∧ 0 < (1 : Byte).toNat ∧
    ({ base.cfg with rndMode := .inclusive } : Config).rndMode = .inclusive ∧
    ({ base.cfg with rndMode := .andMask } : Config).rndMode = .andMask := by decide

theorem witness_StoreRegisterRange : (0xF : Reg) ≤ 0xF ∧ (0 : Reg) ≤ 0 := by decide

theorem witness_LoadRegisterRange : (0xF : Reg) ≤ 0xF ∧ (0 : Reg) ≤ 0 := by decide

theorem witness_PlacedWordRunsNext : (base.setPc 0xFFE).pc.toNat ≤ 0xFFE ∧ (Instr.jp 0xFFF).wellFormed = true := by decide

theorem witness_ToggleFlipsOneCell : ((63 : Fin 64), (31 : Fin 32)) ≠ (63, 30) := by decide

/-- A cell under a 1 bit, wrapped on both axes, and a cell under none. -/
theorem witness_DrawXorsTheSprite :
    (((base.setV 0 63).setV 1 31).setI 0).SpriteCovers 63 31 2 2 0 ∧ ¬ base.SpriteCovers 0 0 0 0 0 :=
  ⟨⟨1, 3, by omega, by omega, by decide, by decide, by decide⟩, by rintro ⟨r, c, hr, -⟩; omega⟩

/-- The state after the first draw serves as the one before the second. -/
theorem witness_DrawingTwiceRestoresTheDisplay :
    ∃ t u, exec (.drw 0 1 5) base = .next t ∧ t.disp = t.disp ∧ t.i = base.i ∧ (∀ a, t.memRead a = base.memRead a) ∧
      t.getV 0 = base.getV 0 ∧ t.getV 1 = base.getV 1 ∧ exec (.drw 0 1 5) t = .next u :=
  ⟨_, _, rfl, rfl, rfl, fun _ => rfl, rfl, rfl, rfl⟩

/-- The highest key alone, and none, in both modes. -/
theorem witness_KeyWaitPollsOnce :
    ((pressing 15 base).key[(15 : Fin 16).val] = true ∧ ∀ j : Fin 16, j < 15 → (pressing 15 base).key[j.val] = false) ∧
    (∀ j : Fin 16, base.key[j.val] = false) ∧ base.cfg.fx0aMode = .repoll ∧
    ({ base.cfg with fx0aMode := .literalSkip } : Config).fx0aMode = .literalSkip := by decide

end Sys2Proof.Tests
end

section
/-! SUPPORT. The program counter after each instruction (10_state.md R22). -/
namespace Sys2Proof.Machine

section
variable {s t : State}

/-! ### The loops of FX55 and FX65 leave pc and the parameters alone -/

@[simp] theorem storeRegs_pc (s : State) (n : Nat) : (s.storeRegs n).pc = s.pc := by
  obtain ⟨m, hm, -⟩ := storeRegs_spec s n
  rw [hm]

@[simp] theorem storeRegs_cfg (s : State) (n : Nat) : (s.storeRegs n).cfg = s.cfg := by
  obtain ⟨m, hm, -⟩ := storeRegs_spec s n
  rw [hm]

@[simp] theorem loadRegs_pc (s : State) (n : Nat) : (s.loadRegs n).pc = s.pc := by
  obtain ⟨v, hv⟩ := loadRegs_spec s n
  rw [hv]

@[simp] theorem loadRegs_cfg (s : State) (n : Nat) : (s.loadRegs n).cfg = s.cfg := by
  obtain ⟨v, hv⟩ := loadRegs_spec s n
  rw [hv]

/-! ### The ways an instruction ends: an advance, a skip, a jump -/

/-- An instruction advances from its own address when its work before the advance, from `s` to `u`, leaves pc and the
parameters alone (R21). -/
theorem pc_of_next_advance {u : State} {k : Nat}
    (h : (.next (u.advance k) : Host.Outcome State Fault Refusal) = .next t) (hpc : u.pc = s.pc) (hcfg : u.cfg = s.cfg) :
    t.pc = seq s.cfg s.pc k := by
  cases h
  rw [advance_pc, hpc, hcfg]

theorem pc_of_next_skipIf {c : Bool} {P : Prop} [Decidable P] (hc : c = true ↔ P)
    (h : (.next (s.skipIf c) : Host.Outcome State Fault Refusal) = .next t) :
    t.pc = seq s.cfg s.pc (if P then 4 else 2) := by
  cases h
  rw [skipIf_pc, if_congr hc rfl rfl]

theorem pc_of_next_setPc {u : State} {p : Pc}
    (h : (.next (u.setPc p) : Host.Outcome State Fault Refusal) = .next t) : t.pc = p := by
  cases h
  rfl

/-! ### RET, CALL and FX0A -/

theorem exec_ret_of_pos (h : 0 < s.sp.val) :
    exec .ret s = .next (s.pop.setPc (seq s.cfg s.topEntry.toPc 2)) := if_neg h.ne'

theorem exec_call_of_lt {nnn : Addr} (h : s.sp.val < 16) :
    exec (.call nnn) s = .next ((s.push (s.pc.setWidth 12)).setPc nnn.toPc) := if_neg h.ne

theorem ldVxK_pc_of_repoll {x : Reg} (hm : s.cfg.fx0aMode = .repoll) (h : exec (.ldVxK x) s = .next t) :
    t.pc = if ∃ k : Fin 16, s.key[k.val] = true then seq s.cfg s.pc 2 else s.pc := by
  simp only [exec, execLdVxK, hm] at h
  simp only [← lowestKey_isSome]
  cases hk : s.lowestKey with
  | none =>
    rw [hk] at h
    cases h
    rfl
  | some k =>
    rw [hk] at h
    exact pc_of_next_advance h rfl rfl

theorem ldVxK_pc_of_literalSkip {x : Reg} (hm : s.cfg.fx0aMode = .literalSkip)
    (h : exec (.ldVxK x) s = .next t) :
    t.pc = seq s.cfg s.pc (if ∃ k : Fin 16, s.key[k.val] = true then 4 else 2) := by
  simp only [exec, execLdVxK, hm] at h
  simp only [← lowestKey_isSome]
  cases hk : s.lowestKey
  all_goals
    rw [hk] at h
    exact pc_of_next_advance h rfl rfl

/-! ### start -/

theorem startRun_of_stopped (h : s.running = false) :
    s.startRun = { s with pc := 0x200, err := none, running := true } := by
  simp [State.startRun, h]

end

/-- Settles O29, row by row of R22's table: the skips, the jumps, CALL and RET with room on the stack, FX0A in both modes,
and the plain advance by two of every other instruction. -/
theorem nextPcTable : Obligations.NextPcTable := by
  refine ⟨fun i s t h hret hcall => ?_, resetBlock_pc, fun s hs => by rw [startRun_of_stopped hs]⟩
  cases i
  case seImm x nn => exact pc_of_next_skipIf beq_iff_eq h
  case sneImm x nn => exact pc_of_next_skipIf bne_iff_ne h
  case seReg x y => exact pc_of_next_skipIf beq_iff_eq h
  case sneReg x y => exact pc_of_next_skipIf bne_iff_ne h
  case skp x => exact pc_of_next_skipIf Iff.rfl h
  case sknp x =>
    have hpc := pc_of_next_skipIf (P := ¬ s.keyPressed (s.getV x) = true) (by simp) h
    rwa [ite_not] at hpc
  case jp nnn => exact pc_of_next_setPc h
  case call nnn =>
    rw [exec_call_of_lt (hcall ⟨nnn, rfl⟩)] at h
    exact pc_of_next_setPc h
  case ret =>
    rw [exec_ret_of_pos (hret rfl)] at h
    exact pc_of_next_setPc h
  case jpV0 nnn =>
    simp only [← indexedTarget_eq]
    exact pc_of_next_setPc h
  case ldVxK x =>
    cases hm : s.cfg.fx0aMode with
    | repoll => exact ldVxK_pc_of_repoll hm h
    | literalSkip => exact ldVxK_pc_of_literalSkip hm h
  case stRegs x => exact pc_of_next_advance h (storeRegs_pc s _) (storeRegs_cfg s _)
  case ldRegs x => exact pc_of_next_advance h (loadRegs_pc s _) (loadRegs_cfg s _)
  case cls | sys | ldImm | addImm | ldReg | orReg | andReg | xorReg | addReg | sub | shr | subn | shl | ldI | rnd | drw |
      ldVxDt | ldDtVx | ldStVx | addI | ldF | ldB => exact pc_of_next_advance h rfl rfl

end Sys2Proof.Machine
end


section
/-! SUPPORT. Memory and the size of a program (20_memory.md R35, R43). -/
namespace Sys2Proof.Machine

section
variable {s : State} {p : List Byte}

@[simp] theorem writeBytes_outputs (s : State) (a : Nat) (bs : List Byte) :
    (s.writeBytes a bs).outputs = s.outputs := by
  obtain ⟨m, hm, -⟩ := writeBytes_spec s a bs
  rw [hm]

theorem loadProgram_of_fits (h : 0x200 + p.length ≤ 4096) :
    s.loadProgram p = (s.resetBlock.writeBytes 0x200 p).setPc 0x200 := if_neg h.not_gt

theorem loadProgram_of_tooLong (h : 4096 < 0x200 + p.length) : s.loadProgram p = s.emit .programTooLarge := if_pos h

theorem loadProgram_outputs_of_fits (h : 0x200 + p.length ≤ 4096) : (s.loadProgram p).outputs = s.outputs := by
  simp [loadProgram_of_fits h]

theorem loadProgram_outputs_of_tooLong (h : 4096 < 0x200 + p.length) :
    (s.loadProgram p).outputs = .programTooLarge :: s.outputs := by
  rw [loadProgram_of_tooLong h, emit_outputs]

end

/-- Settles O18: a load that fits leaves the outputs as they are, so they do not gain an event, and one that does not fit
adds exactly `programTooLarge`. -/
theorem loadFailsExactlyWhenTooLong : Obligations.LoadFailsExactlyWhenTooLong := by
  refine fun s p => ⟨by omega, fun hout hfits => ?_, fun htoo => ?_⟩
  · rw [loadProgram_outputs_of_fits hfits] at hout
    exact List.cons_ne_self _ _ hout
  · exact (loadProgram_outputs_of_tooLong (not_le.mp htoo)).symm

/-- Settles O46: the byte read back is the one written, and the write's frame is the byte alone. -/
theorem memoryReadsBackWhatWasWritten : Obligations.MemoryReadsBackWhatWasWritten :=
  fun s a b => ⟨memRead_memWrite_same s a b, keeps_memWrite s a b⟩

end Sys2Proof.Machine
end


section
/-! SUPPORT. Skips and memory (40_control_flow.md R65). -/
namespace Sys2Proof.Machine

/-- A skip whose condition a write to memory leaves as it was takes the same way after the write: its advance looks at pc
and the parameters alone. -/
theorem exec_skip_memWrite {i : Instr} {s : State} {cond : State → Bool} {a : Addr} {b : Byte}
    (hskip : ∀ u, exec i u = .next (u.skipIf (cond u))) (hcond : cond (s.memWrite a b) = cond s) :
    ∃ t, exec i s = .next t ∧ exec i (s.memWrite a b) = .next (t.memWrite a b) := by
  refine ⟨s.skipIf (cond s), hskip s, ?_⟩
  rw [hskip, hcond]
  rfl

/-- Settles O38: each of the six skips is `skipIf` under its own condition, which writes pc alone, and the condition reads
registers and keys, which a write to memory keeps. -/
theorem skipsAddTwoMore : Obligations.SkipsAddTwoMore := by
  refine ⟨fun s x y nn => ?registers, fun s x => ?keys, fun s i a b hi => ?memory⟩
  case registers =>
    exact ⟨_, _, _, _, rfl, pc_of_next_skipIf beq_iff_eq rfl, rfl, pc_of_next_skipIf bne_iff_ne rfl,
      rfl, pc_of_next_skipIf beq_iff_eq rfl, rfl, pc_of_next_skipIf bne_iff_ne rfl,
      keeps_skipIf s _, keeps_skipIf s _, keeps_skipIf s _, keeps_skipIf s _⟩
  case keys =>
    exact ⟨_, _, rfl, pc_of_next_skipIf Iff.rfl rfl, rfl, pc_of_next_skipIf (Bool.not_eq_true' _).to_iff rfl,
      keeps_skipIf s _, keeps_skipIf s _⟩
  case memory =>
    obtain ⟨x, nn, y, rfl | rfl | rfl | rfl | rfl | rfl⟩ := hi
    · exact exec_skip_memWrite (cond := fun u => u.getV x == nn) (fun _ => rfl) rfl
    · exact exec_skip_memWrite (cond := fun u => u.getV x != nn) (fun _ => rfl) rfl
    · exact exec_skip_memWrite (cond := fun u => u.getV x == u.getV y) (fun _ => rfl) rfl
    · exact exec_skip_memWrite (cond := fun u => u.getV x != u.getV y) (fun _ => rfl) rfl
    · exact exec_skip_memWrite (cond := fun u => u.keyPressed (u.getV x)) (fun _ => rfl) rfl
    · exact exec_skip_memWrite (cond := fun u => !u.keyPressed (u.getV x)) (fun _ => rfl) rfl

end Sys2Proof.Machine
end


section
/-! SUPPORT. The two primitives of the display, and CLS (43_display.md R96 to R98). -/
namespace Sys2Proof.Machine

/-! ### What the primitives do to a cell -/

/-- The display after a toggle, cell by cell. -/
theorem cell_toggle (d : Display) (x x' : Fin 64) (y y' : Fin 32) :
    (d.toggle x y).1.cell x' y' = if x' = x ∧ y' = y then !d.cell x y else d.cell x' y' :=
  cell_set d x x' y y' _

@[simp] theorem cell_toggle_same (d : Display) (x : Fin 64) (y : Fin 32) :
    (d.toggle x y).1.cell x y = !d.cell x y := by
  rw [cell_toggle, if_pos ⟨rfl, rfl⟩]

theorem cell_toggle_ne (d : Display) {x x' : Fin 64} {y y' : Fin 32} (h : (x', y') ≠ (x, y)) :
    (d.toggle x y).1.cell x' y' = d.cell x' y' := by
  rw [cell_toggle, if_neg (mt Prod.mk_inj.mpr h)]

/-- The answer of a toggle is the cell's old value. -/
@[simp] theorem toggle_snd (d : Display) (x : Fin 64) (y : Fin 32) : (d.toggle x y).2 = d.cell x y := rfl

@[simp] theorem cell_clear (x : Fin 64) (y : Fin 32) : Display.clear.cell x y = false := by
  simp [Display.cell, Display.clear]

/-! ### CLS -/

theorem exec_cls (s : State) : exec .cls s = .next ((s.setDisp Display.clear).advance 2) := rfl

/-- CLS writes the cells, by Clear, and pc, by its advance. -/
theorem keeps_cls (s : State) :
    KeepsOutside (fun p => p = .pc ∨ ∃ x y, p = .cell x y) s ((s.setDisp Display.clear).advance 2) := by
  refine (KeepsOutside.mono (keeps_setDisp s _) fun p hp => ?cells).trans
    (KeepsOutside.mono (keeps_advance _ 2) fun p hp => ?pc)
  case cells =>
    cases p with
    | cell x y => exact .inr ⟨x, y, rfl⟩
    | _ => exact hp.elim
  case pc => exact .inl (List.mem_singleton.mp hp)

/-- A word that decodes is accepted by the entry of the table that builds its instruction (R56). -/
theorem exists_row_of_decodeWord {op : Opcode} {i : Instr} (h : decodeWord op = .ok i) :
    ∃ r ∈ decodeTable, r.accepts op = true ∧ r.build op = i := by
  unfold decodeWord at h
  split at h
  next r hr =>
    cases h
    exact ⟨r, List.mem_of_find?_eq_some hr, List.find?_some (p := (DecodeRow.accepts · op)) hr, rfl⟩
  next => cases h

/-- No entry of the table after the first builds CLS. -/
theorem build_ne_cls_of_mem_tail {r : DecodeRow} (hr : r ∈ decodeTable.tail) (op : Opcode) : r.build op ≠ .cls := by
  revert r
  simp [decodeTable, decodeRowsControl, decodeRowsAlu, decodeRowsMiddle, decodeRowsMisc]

/-- CLS is the one word 00E0. -/
theorem decodeWord_eq_cls (op : Opcode) : decodeWord op = .ok .cls ↔ op &&& 0xFFFF = 0x00E0 := by
  constructor
  · intro h
    obtain ⟨r, hr, hacc, hbuild⟩ := exists_row_of_decodeWord h
    obtain rfl | htail := List.mem_cons.mp hr
    · exact beq_iff_eq.mp hacc
    · exact absurd hbuild (build_ne_cls_of_mem_tail htail op)
  · intro h
    have hop : op = 0x00E0 := (and_mask_FFFF op).symm.trans h
    rw [hop]
    rfl

/-- Settles O53: after the toggle the cell holds its old value flipped, so it went from set to unset exactly when the old
value, which the toggle answers, was set. -/
theorem toggleFlipsOneCell : Obligations.ToggleFlipsOneCell :=
  fun d x y => ⟨cell_toggle_same d x y, fun _ _ => cell_toggle_ne d,
    (and_iff_left_of_imp fun h => by rw [cell_toggle_same, ← toggle_snd, h]; rfl).symm⟩

/-- Settles O54: every cell of the cleared display is 0, and it is the display after CLS and after the block reset. -/
theorem clearSetsEveryCellToZero : Obligations.ClearSetsEveryCellToZero :=
  ⟨cell_clear, fun s => ⟨_, exec_cls s, rfl⟩, resetBlock_disp⟩

/-- Settles O55: only the word 00E0 decodes to CLS, and CLS is a clear, then an advance. -/
theorem clsClearsTheDisplay : Obligations.ClsClearsTheDisplay :=
  ⟨decodeWord_eq_cls, fun s => ⟨_, exec_cls s, cell_clear, rfl, keeps_cls s⟩⟩

end Sys2Proof.Machine
end


section
/-! SUPPORT. The decode table and the encoder undo each other (30_encoding.md R52 to R58). -/
namespace Sys2Proof

/-! ### The entries of the table against each other (R56) -/

/-- The decoder gives what the first entry that accepts the opcode builds. -/
theorem decodeWord_eq_ok_iff {op : Opcode} {i : Instr} :
    decodeWord op = .ok i ↔ ∃ (k : Nat) (r : DecodeRow), decodeTable[k]? = some r ∧ op &&& r.mask = r.value ∧
      r.build op = i ∧ ∀ (j : Nat) (q : DecodeRow), j < k → decodeTable[j]? = some q → op &&& q.mask ≠ q.value := by
  have hfind : decodeWord op = .ok i ↔
      ∃ r, decodeTable.find? (fun r => r.accepts op) = some r ∧ r.build op = i := by
    unfold decodeWord
    cases decodeTable.find? (fun r => r.accepts op) <;> simp
  rw [hfind]
  constructor
  · rintro ⟨r, hr, hb⟩
    obtain ⟨hacc, k, hk, hkr, hfirst⟩ := List.find?_eq_some_iff_getElem.mp hr
    refine ⟨k, r, by rw [List.getElem?_eq_getElem hk, hkr], beq_iff_eq.mp hacc, hb, fun j q hj hq => ?_⟩
    obtain ⟨hlt, rfl⟩ := List.getElem?_eq_some_iff.mp hq
    simpa [DecodeRow.accepts] using hfirst j hj
  · rintro ⟨k, r, hk, hacc, hb, hfirst⟩
    obtain ⟨hlt, hkr⟩ := List.getElem?_eq_some_iff.mp hk
    refine ⟨r, List.find?_eq_some_iff_getElem.mpr ⟨beq_iff_eq.mpr hacc, k, hlt, hkr, fun j hj => ?_⟩, hb⟩
    simpa [DecodeRow.accepts] using hfirst j _ hj (List.getElem?_eq_getElem (hj.trans hlt))

/-- Two entries agree where both their masks look: some opcode could match both. -/
def DecodeRow.overlaps (q r : DecodeRow) : Bool := q.value &&& r.mask == r.value &&& q.mask

theorem overlaps_of_match {op : Opcode} {q r : DecodeRow} (hq : op &&& q.mask = q.value) (hr : op &&& r.mask = r.value) :
    q.overlaps r = true := by
  rw [DecodeRow.overlaps, beq_iff_eq, ← hq, ← hr, BitVec.and_assoc, BitVec.and_assoc, BitVec.and_comm q.mask]

/-- The only entries that overlap a later one are 00E0 and 00EE, and the later one is 0NNN. -/
theorem overlaps_only_sys : ∀ k < 35, ∀ j < k, ∀ r ∈ decodeTable[k]?, ∀ q ∈ decodeTable[j]?,
    q.overlaps r = true → k = 2 ∧ j < 2 := by
  decide

/-- An opcode that two entries match is 00E0 or 00EE, and the later entry is 0NNN. -/
theorem two_matches {op : Opcode} {j k : Nat} {q r : DecodeRow} (hjk : j < k) (hj : decodeTable[j]? = some q)
    (hk : decodeTable[k]? = some r) (hq : op &&& q.mask = q.value) (hr : op &&& r.mask = r.value) :
    k = 2 ∧ (j = 0 ∧ op = 0x00E0 ∨ j = 1 ∧ op = 0x00EE) := by
  have hlt : k < 35 := (List.getElem?_eq_some_iff.mp hk).1
  obtain ⟨rfl, hj2⟩ := overlaps_only_sys k hlt j hjk r hk q hj (overlaps_of_match hq hr)
  refine ⟨rfl, ?_⟩
  obtain rfl | rfl : j = 0 ∨ j = 1 := by omega
  · cases hj
    exact .inl ⟨rfl, (and_mask_FFFF op).symm.trans hq⟩
  · cases hj
    exact .inr ⟨rfl, (and_mask_FFFF op).symm.trans hq⟩

/-! ### Decoding an encoding -/

/-- Every instruction's word is accepted by an entry that builds the instruction (R56). -/
theorem exists_row_of_instr (i : Instr) : Laws.RowMatch.Statement i := by
  cases i
  case cls => exact Laws.RowMatch.cls
  case ret => exact Laws.RowMatch.ret
  case sys nnn => exact Laws.RowMatch.sys nnn
  case jp nnn => exact Laws.RowMatch.jp nnn
  case call nnn => exact Laws.RowMatch.call nnn
  case seImm x nn => exact Laws.RowMatch.seImm x nn
  case sneImm x nn => exact Laws.RowMatch.sneImm x nn
  case seReg x y => exact Laws.RowMatch.seReg x y
  case ldImm x nn => exact Laws.RowMatch.ldImm x nn
  case addImm x nn => exact Laws.RowMatch.addImm x nn
  case ldReg x y => exact Laws.RowMatch.ldReg x y
  case orReg x y => exact Laws.RowMatch.orReg x y
  case andReg x y => exact Laws.RowMatch.andReg x y
  case xorReg x y => exact Laws.RowMatch.xorReg x y
  case addReg x y => exact Laws.RowMatch.addReg x y
  case sub x y => exact Laws.RowMatch.sub x y
  case shr x y => exact Laws.RowMatch.shr x y
  case subn x y => exact Laws.RowMatch.subn x y
  case shl x y => exact Laws.RowMatch.shl x y
  case sneReg x y => exact Laws.RowMatch.sneReg x y
  case ldI nnn => exact Laws.RowMatch.ldI nnn
  case jpV0 nnn => exact Laws.RowMatch.jpV0 nnn
  case rnd x nn => exact Laws.RowMatch.rnd x nn
  case drw x y n => exact Laws.RowMatch.drw x y n
  case skp x => exact Laws.RowMatch.skp x
  case sknp x => exact Laws.RowMatch.sknp x
  case ldVxDt x => exact Laws.RowMatch.ldVxDt x
  case ldVxK x => exact Laws.RowMatch.ldVxK x
  case ldDtVx x => exact Laws.RowMatch.ldDtVx x
  case ldStVx x => exact Laws.RowMatch.ldStVx x
  case addI x => exact Laws.RowMatch.addI x
  case ldF x => exact Laws.RowMatch.ldF x
  case ldB x => exact Laws.RowMatch.ldB x
  case stRegs x => exact Laws.RowMatch.stRegs x
  case ldRegs x => exact Laws.RowMatch.ldRegs x

/-- The word of a well-formed instruction decodes to it: the instruction's own entry matches the word, and an earlier
match would make the instruction a SYS of 0E0 or 0EE. -/
theorem decodeWord_encode {i : Instr} (hwf : i.wellFormed = true) : decodeWord (encode i) = .ok i := by
  obtain ⟨r, hr, hacc, hbuild⟩ := exists_row_of_instr i
  obtain ⟨k, hk⟩ := List.mem_iff_getElem?.mp hr
  have hmatch : encode i &&& r.mask = r.value := beq_iff_eq.mp hacc
  refine decodeWord_eq_ok_iff.mpr ⟨k, r, hk, hmatch, hbuild, fun j q hj hq hqm => ?_⟩
  obtain ⟨rfl, hop⟩ := two_matches hj hq hk hqm hmatch
  cases hk
  rw [← hbuild] at hwf
  obtain ⟨-, hop⟩ | ⟨-, hop⟩ := hop
  · rw [hop] at hwf
    exact absurd hwf (by decide)
  · rw [hop] at hwf
    exact absurd hwf (by decide)

theorem decode_encodeBytes {i : Instr} (hwf : i.wellFormed = true) (rest : List Byte) :
    decode (encodeBytes i ++ rest) = .ok (i, rest) := by
  rw [encodeBytes, List.cons_append, List.singleton_append, decode_bytes, decodeWord_encode hwf]

theorem decodeTableWord_toNat (op : Opcode) :
    decodeTableWord 16 op.toNat = (decodeWord op).toOption := by
  have hop : BitVec.ofNat 16 (op.toNat % 2 ^ 16) = op := by
    rw [Nat.mod_eq_of_lt op.isLt, BitVec.ofNat_toNat, BitVec.setWidth_eq]
  rw [decodeTableWord, hop, decode_bytes]
  cases decodeWord op <;> rfl

/-- Settles O2: the word decodes by the instruction's own entry of the table, and the bytes and the table word are read
as that word. -/
theorem decodeOfEncode : Obligations.DecodeOfEncode :=
  fun i rest hwf => ⟨decodeWord_encode hwf, decode_encodeBytes hwf rest, by
    rw [decodeTableWord_toNat, decodeWord_encode hwf]; rfl⟩

/-- Settles O5: the decoder is a search for the first match, and the masks of two entries leave them no common opcode but
00E0 and 00EE, which the first two entries take. -/
theorem firstMatchingEntryWins : Obligations.FirstMatchingEntryWins := by
  refine ⟨fun op i => decodeWord_eq_ok_iff, fun op j k q r hjk hj hk hq hr => ?_⟩
  obtain ⟨rfl, ⟨rfl, rfl⟩ | ⟨rfl, rfl⟩⟩ := two_matches hjk hj hk hq hr
  · exact ⟨rfl, .inl ⟨rfl, rfl, rfl⟩⟩
  · exact ⟨rfl, .inr ⟨rfl, rfl, rfl⟩⟩

/-! ### Encoding what was decoded, class by class (R57) -/

theorem wellFormed_sys_iff (nnn : Addr) :
    (Instr.sys nnn).wellFormed = true ↔ nnn.toNat ≠ 0xE0 ∧ nnn.toNat ≠ 0xEE := by
  simp [Instr.wellFormed, BitVec.toNat_eq]

/-- What the decoder gives decides the question for the instruction it gives. -/
theorem encodeOfDecode_of_eq {op : Opcode} {i j : Instr} (h : decodeWord op = .ok i) (hj : decodeWord op = .ok j)
    (he : encode j = op) (hwf : j.wellFormed = true := by rfl) : i.wellFormed = true ∧ encode i = op := by
  rw [hj] at h
  cases h
  exact ⟨hwf, he⟩

/-- Settles O3: in each class the fields of the word, put back in the class's format, give the word again, and the class
whose words are CLS, RET and SYS keeps the first two from SYS. -/
theorem encodeOfDecode : Obligations.EncodeOfDecode := by
  intro op i h
  have hclass : op.toNat / 4096 < 16 := by have := op.isLt; omega
  interval_cases hc : op.toNat / 4096
  · have hdec := decodeWord_class0 hc
    split_ifs at hdec with hcls hret
    · exact encodeOfDecode_of_eq h hdec (BitVec.eq_of_toNat_eq hcls.symm)
    · exact encodeOfDecode_of_eq h hdec (BitVec.eq_of_toNat_eq hret.symm)
    · have hnnn : (fieldNNN op).toNat = op.toNat := by rw [fieldNNN_toNat]; omega
      exact encodeOfDecode_of_eq h hdec (formFA_fields hc) ((wellFormed_sys_iff _).mpr (hnnn ▸ ⟨hcls, hret⟩))
  · exact encodeOfDecode_of_eq h (decodeWord_class1 hc) (formFA_fields hc)
  · exact encodeOfDecode_of_eq h (decodeWord_class2 hc) (formFA_fields hc)
  · exact encodeOfDecode_of_eq h (decodeWord_class3 hc) (formFXK_fields hc (fieldNN_toNat op).symm)
  · exact encodeOfDecode_of_eq h (decodeWord_class4 hc) (formFXK_fields hc (fieldNN_toNat op).symm)
  · rw [decodeWord_class5 hc] at h
    split at h <;> cases h
    exact ⟨rfl, formFXY_fields hc ‹_›⟩
  · exact encodeOfDecode_of_eq h (decodeWord_class6 hc) (formFXK_fields hc (fieldNN_toNat op).symm)
  · exact encodeOfDecode_of_eq h (decodeWord_class7 hc) (formFXK_fields hc (fieldNN_toNat op).symm)
  · rw [decodeWord_class8 hc] at h
    split at h <;> cases h
    all_goals exact ⟨rfl, formFXY_fields hc ‹_›⟩
  · rw [decodeWord_class9 hc] at h
    split at h <;> cases h
    exact ⟨rfl, formFXY_fields hc ‹_›⟩
  · exact encodeOfDecode_of_eq h (decodeWord_class10 hc) (formFA_fields hc)
  · exact encodeOfDecode_of_eq h (decodeWord_class11 hc) (formFA_fields hc)
  · exact encodeOfDecode_of_eq h (decodeWord_class12 hc) (formFXK_fields hc (fieldNN_toNat op).symm)
  · exact encodeOfDecode_of_eq h (decodeWord_class13 hc) (formFXY_fields hc (fieldN_val op).symm)
  · rw [decodeWord_class14 hc] at h
    split at h <;> cases h
    all_goals exact ⟨rfl, formFXK_fields hc ‹_›⟩
  · rw [decodeWord_class15 hc] at h
    split at h <;> cases h
    all_goals exact ⟨rfl, formFXK_fields hc ‹_›⟩

/-- Settles O4: class by class, the words the decoder's map of the class leaves without an instruction. -/
theorem illegalOpcodesAreTheListedOnes : Obligations.IllegalOpcodesAreTheListedOnes := by
  intro op
  have hclass : op.toNat / 4096 < 16 := by have := op.isLt; omega
  interval_cases hc : op.toNat / 4096
  · rw [decodeWord_class0 hc]
    split_ifs <;> simp
  · simp [decodeWord_class1 hc]
  · simp [decodeWord_class2 hc]
  · simp [decodeWord_class3 hc]
  · simp [decodeWord_class4 hc]
  · simp [decodeWord_class5 hc]
  · simp [decodeWord_class6 hc]
  · simp [decodeWord_class7 hc]
  · rw [decodeWord_class8 hc]
    have hn : op.toNat % 16 < 16 := by omega
    generalize op.toNat % 16 = n at *
    interval_cases n <;> simp
  · simp [decodeWord_class9 hc]
  · simp [decodeWord_class10 hc]
  · simp [decodeWord_class11 hc]
  · simp [decodeWord_class12 hc]
  · simp [decodeWord_class13 hc]
  · rw [decodeWord_class14 hc]
    split <;> simp_all
  · rw [decodeWord_class15 hc]
    split <;> simp_all

/-- Settles O1: each word is searched for in the table. -/
theorem sampleWordsDecode : Obligations.SampleWordsDecode := by
  unfold Obligations.SampleWordsDecode
  decide

end Sys2Proof
end


section
/-! SUPPORT. What a draw does to the display and to VF (43_display.md R99, R100). -/
namespace Sys2Proof.Machine

/-! ### The cells under one row of the sprite, and under all of them -/

/-- Row `r` of the sprite at (vx, vy) has a 1 bit over the cell (cx, cy) (R99). -/
def State.RowCovers (s : State) (vx vy : Byte) (r : Nat) (cx : Fin 64) (cy : Fin 32) : Prop :=
  cy = wrapY (vy.toNat + r) ∧
    ∃ c, c < 8 ∧ cx.val = (vx.toNat + c) % 64 ∧ (s.memRead (s.ea r)).getLsbD (7 - c) = true

/-- The sprite covers a cell when one of its rows does. -/
theorem spriteCovers_iff {s : State} {vx vy : Byte} {n : Nat} {cx : Fin 64} {cy : Fin 32} :
    s.SpriteCovers vx vy n cx cy ↔ ∃ r < n, s.RowCovers vx vy r cx cy := by
  simp only [State.SpriteCovers, State.RowCovers, ea_eq, Fin.ext_iff, wrapY]
  constructor
  · rintro ⟨r, c, hr, hc, hx, hy, hb⟩
    exact ⟨r, hr, hy, c, hc, hx, hb⟩
  · rintro ⟨r, hr, hy, c, hc, hx, hb⟩
    exact ⟨r, c, hr, hc, hx, hy, hb⟩

theorem spriteCovers_succ {s : State} {vx vy : Byte} {n : Nat} {cx : Fin 64} {cy : Fin 32} :
    s.SpriteCovers vx vy (n + 1) cx cy ↔ s.SpriteCovers vx vy n cx cy ∨ s.RowCovers vx vy n cx cy := by
  simp only [spriteCovers_iff, Order.lt_add_one_iff, Nat.le_iff_lt_or_eq, or_and_right, exists_or, exists_eq_left]

/-- The rows of a sprite, fewer than the screen's 32, lie on different rows of the screen. -/
theorem not_spriteCovers_of_row {s : State} {vx vy : Byte} {n : Nat} {cx : Fin 64} {cy : Fin 32} (hn : n < 32)
    (hy : cy = wrapY (vy.toNat + n)) : ¬ s.SpriteCovers vx vy n cx cy := by
  rintro ⟨r, -, hr, -, -, hcy, -⟩
  rw [hy] at hcy
  simp only [wrapY] at hcy
  omega

/-- What a sprite covers depends on memory and I alone. -/
theorem spriteCovers_congr {s r : State} {vx vy : Byte} {n : Nat} {cx : Fin 64} {cy : Fin 32} (hi : r.i = s.i)
    (hmem : ∀ a, r.memRead a = s.memRead a) : r.SpriteCovers vx vy n cx cy ↔ s.SpriteCovers vx vy n cx cy := by
  simp only [State.SpriteCovers, hi, hmem]

/-! ### The loops -/

/-- The loops flip exactly the cells under the sprite's 1 bits: the row drawn last flips its own cells, which no earlier
row covers. -/
theorem drawRows_cell (s : State) (vx vy : Byte) {n : Nat} (hn : n ≤ 32) (cx : Fin 64) (cy : Fin 32) :
    (s.SpriteCovers vx vy n cx cy → (s.drawRows vx.toNat vy.toNat n).1.cell cx cy = !s.disp.cell cx cy) ∧
    (¬ s.SpriteCovers vx vy n cx cy → (s.drawRows vx.toNat vy.toNat n).1.cell cx cy = s.disp.cell cx cy) := by
  induction n with
  | zero => simp [State.drawRows, State.SpriteCovers]
  | succ n ih =>
    obtain ⟨ihflip, ihkeep⟩ := ih (by omega)
    have hrow := (drawColumns_spec (s.memRead (s.ea n)) vx.toNat (wrapY (vy.toNat + n))
      (s.drawRows vx.toNat vy.toNat n) le_rfl).1 cx cy
    rw [spriteCovers_succ, State.RowCovers, State.drawRows, hrow]
    refine ⟨fun hc => ?_, fun hc => ?_⟩
    · obtain hearlier | hlast := hc
      · have hy : cy ≠ wrapY (vy.toNat + n) := fun hy => not_spriteCovers_of_row (by omega) hy hearlier
        rw [ihflip hearlier, decide_eq_false fun h => hy h.1, Bool.xor_false]
      · rw [ihkeep (not_spriteCovers_of_row (by omega) hlast.1), decide_eq_true hlast, Bool.xor_true]
    · obtain ⟨hearlier, hlast⟩ := not_or.mp hc
      rw [ihkeep hearlier, decide_eq_false hlast, Bool.xor_false]

theorem drawRows_cell_of_covers {s : State} {vx vy : Byte} {n : Nat} {cx : Fin 64} {cy : Fin 32} (hn : n ≤ 32)
    (hc : s.SpriteCovers vx vy n cx cy) :
    (s.drawRows vx.toNat vy.toNat n).1.cell cx cy = !s.disp.cell cx cy := (drawRows_cell s vx vy hn cx cy).1 hc

theorem drawRows_cell_of_not_covers {s : State} {vx vy : Byte} {n : Nat} {cx : Fin 64} {cy : Fin 32} (hn : n ≤ 32)
    (hc : ¬ s.SpriteCovers vx vy n cx cy) :
    (s.drawRows vx.toNat vy.toNat n).1.cell cx cy = s.disp.cell cx cy := (drawRows_cell s vx vy hn cx cy).2 hc

/-- The loops report a collision exactly when a cell under a 1 bit was set. -/
theorem drawRows_collision (s : State) (vx vy : Byte) {n : Nat} (hn : n ≤ 32) :
    (s.drawRows vx.toNat vy.toNat n).2 = true ↔
      ∃ cx cy, s.SpriteCovers vx vy n cx cy ∧ s.disp.cell cx cy = true := by
  induction n with
  | zero => simp [State.drawRows, State.SpriteCovers]
  | succ n ih =>
    have hrow := (drawColumns_spec (s.memRead (s.ea n)) vx.toNat (wrapY (vy.toNat + n))
      (s.drawRows vx.toNat vy.toNat n) le_rfl).2
    have hfresh (cx : Fin 64) : (s.drawRows vx.toNat vy.toNat n).1.cell cx (wrapY (vy.toNat + n)) =
        s.disp.cell cx (wrapY (vy.toNat + n)) :=
      drawRows_cell_of_not_covers (by omega) (not_spriteCovers_of_row (by omega) rfl)
    rw [State.drawRows, hrow, ih (by omega)]
    simp only [spriteCovers_succ, or_and_right, exists_or, hfresh]
    refine or_congr_right ⟨?_, ?_⟩
    · rintro ⟨k, hk, hb, hset⟩
      exact ⟨_, _, ⟨rfl, k, hk, rfl, hb⟩, hset⟩
    · rintro ⟨cx, cy, ⟨rfl, k, hk, hx, hb⟩, hset⟩
      obtain rfl : cx = wrapX (vx.toNat + k) := Fin.ext hx
      exact ⟨k, hk, hb, hset⟩

/-! ### DXYN -/

section
variable (s : State) (x y : Reg) (n : Fin 16)

/-- The state after DXYN, before the advance: the loops' display, and their collision in VF. -/
def State.drawn : State :=
  (s.setDisp (s.drawRows (s.getV x).toNat (s.getV y).toNat n.val).1).setV vf
    (flagOf (s.drawRows (s.getV x).toNat (s.getV y).toNat n.val).2)

theorem exec_drw : exec (.drw x y n) s = .next ((s.drawn x y n).advance 2) := rfl

variable {s x y n} in
theorem drawn_cell_of_covers {cx : Fin 64} {cy : Fin 32} (hc : s.SpriteCovers (s.getV x) (s.getV y) n.val cx cy) :
    (s.drawn x y n).disp.cell cx cy = !s.disp.cell cx cy := drawRows_cell_of_covers (by omega) hc

variable {s x y n} in
theorem drawn_cell_of_not_covers {cx : Fin 64} {cy : Fin 32}
    (hc : ¬ s.SpriteCovers (s.getV x) (s.getV y) n.val cx cy) :
    (s.drawn x y n).disp.cell cx cy = s.disp.cell cx cy := drawRows_cell_of_not_covers (by omega) hc

theorem flagOf_eq_one_iff (c : Bool) : flagOf c = 1 ↔ c = true := by cases c <;> decide

theorem flagOf_eq_zero_iff (c : Bool) : flagOf c = 0 ↔ c = false := by cases c <;> decide

theorem drawn_getV_vf : (s.drawn x y n).getV vf =
    flagOf (s.drawRows (s.getV x).toNat (s.getV y).toNat n.val).2 := getV_setV_same _ _ _

theorem drawn_collides_iff : (s.drawn x y n).getV vf = 1 ↔
    ∃ cx cy, s.SpriteCovers (s.getV x) (s.getV y) n.val cx cy ∧ s.disp.cell cx cy = true := by
  rw [drawn_getV_vf, flagOf_eq_one_iff, drawRows_collision s _ _ (by omega)]

theorem drawn_misses_iff : (s.drawn x y n).getV vf = 0 ↔
    ∀ cx cy, s.SpriteCovers (s.getV x) (s.getV y) n.val cx cy → s.disp.cell cx cy = false := by
  rw [drawn_getV_vf, flagOf_eq_zero_iff, ← Bool.not_eq_true, drawRows_collision s _ _ (by omega)]
  simp only [not_exists, not_and, Bool.not_eq_true]

/-- DXYN writes VF, the cells under the sprite's 1 bits, and pc. -/
theorem keeps_drw : KeepsOutside (fun p => p = .pc ∨ p = .reg vf ∨
    ∃ cx cy, p = .cell cx cy ∧ s.SpriteCovers (s.getV x) (s.getV y) n.val cx cy) s ((s.drawn x y n).advance 2) := by
  intro p hp
  simp only [not_or, not_exists, not_and] at hp
  obtain ⟨hpc, hvf, hcell⟩ := hp
  cases p with
  | pc => exact absurd rfl hpc
  | reg r => exact getV_setV_ne _ _ fun h => hvf (congrArg Part.reg h)
  | cell cx cy => exact drawn_cell_of_not_covers (hcell cx cy rfl)
  | _ => rfl

end

/-- Settles O56: the loops flip exactly the covered cells, and VF tells the two cases of the collision apart. -/
theorem drawXorsTheSprite : Obligations.DrawXorsTheSprite := by
  refine fun s x y n => ⟨_, exec_drw s x y n, fun cx cy hc => drawn_cell_of_covers hc, ?_, rfl, keeps_drw s x y n⟩
  by_cases hhit : ∃ cx cy, s.SpriteCovers (s.getV x) (s.getV y) n.val cx cy ∧ s.disp.cell cx cy = true
  · exact .inl ⟨(drawn_collides_iff s x y n).mpr hhit, hhit⟩
  · have hmiss : ∀ cx cy, s.SpriteCovers (s.getV x) (s.getV y) n.val cx cy → s.disp.cell cx cy = false := by
      simpa using hhit
    exact .inr ⟨(drawn_misses_iff s x y n).mpr hmiss, hmiss⟩

/-- Settles O57: the second draw covers the same cells as the first, so it flips each of them back, and it meets a set cell
where the first left one, that is, where the cell was unset before both. -/
theorem drawingTwiceRestoresTheDisplay : Obligations.DrawingTwiceRestoresTheDisplay := by
  intro s t r u x y n ht hdisp hi hmem hx hy hu
  rw [exec_drw] at ht hu
  cases ht
  cases hu
  have hcovers (cx : Fin 64) (cy : Fin 32) : r.SpriteCovers (r.getV x) (r.getV y) n.val cx cy ↔
      s.SpriteCovers (s.getV x) (s.getV y) n.val cx cy := by
    rw [hx, hy]
    exact spriteCovers_congr hi hmem
  have hrcell (cx : Fin 64) (cy : Fin 32) : r.disp.cell cx cy = (s.drawn x y n).disp.cell cx cy := by
    rw [hdisp]
    rfl
  refine ⟨display_ext fun cx cy => ?_, drawn_collides_iff s x y n, (drawn_collides_iff r x y n).trans ?_⟩
  · by_cases hc : s.SpriteCovers (s.getV x) (s.getV y) n.val cx cy
    · calc (r.drawn x y n).disp.cell cx cy = !r.disp.cell cx cy := drawn_cell_of_covers ((hcovers cx cy).mpr hc)
        _ = !!s.disp.cell cx cy := by rw [hrcell, drawn_cell_of_covers hc]
        _ = s.disp.cell cx cy := Bool.not_not _
    · calc (r.drawn x y n).disp.cell cx cy = r.disp.cell cx cy :=
          drawn_cell_of_not_covers (mt (hcovers cx cy).mp hc)
        _ = s.disp.cell cx cy := by rw [hrcell, drawn_cell_of_not_covers hc]
  · refine exists_congr fun cx => exists_congr fun cy => ?_
    rw [hcovers, hrcell]
    exact and_congr_right fun hc => by rw [drawn_cell_of_covers hc, Bool.not_eq_true']

end Sys2Proof.Machine
end


section
/-! SUPPORT. What each instruction can do: the one error it can raise while executing, and else the parts of the state
that it writes, with everything outside them as before (40_control_flow.md to 44_keypad_timers.md). -/
namespace Sys2Proof.Machine

/-! ### The loops of FX55 and FX65 -/

theorem keeps_storeRegs (s : State) {n : Nat} (hn : n ≤ 16) :
    KeepsOutside (fun p => ∃ k : Reg, k.val < n ∧ p = .byte (s.ea k.val)) s (s.storeRegs n) := by
  intro p hp
  cases p with
  | byte a => exact storeRegs_ne hn fun k hk ha => hp ⟨k, hk, congrArg Part.byte ha⟩
  | _ =>
    obtain ⟨m, hm, -⟩ := storeRegs_spec s n
    rw [hm]
    rfl

theorem keeps_loadRegs (s : State) {n : Nat} (hn : n ≤ 16) :
    KeepsOutside (fun p => ∃ k : Reg, k.val < n ∧ p = .reg k) s (s.loadRegs n) := by
  intro p hp
  cases p with
  | reg r => exact (loadRegs_getV hn r).trans (if_neg fun hr => hp ⟨r, hr, rfl⟩)
  | _ =>
    obtain ⟨v, hv⟩ := loadRegs_spec s n
    rw [hv]
    rfl

theorem keeps_stRegs (s : State) (x : Reg) :
    KeepsOutside (fun p => p = .pc ∨ ∃ k : Reg, k ≤ x ∧ p = .byte (s.ea k.val)) s
      ((s.storeRegs (x.val + 1)).advance 2) := by
  refine ((keeps_storeRegs s (by omega)).mono fun p hp => ?_).trans
    (KeepsOutside.mono (keeps_advance _ 2) fun p hp => .inl (List.mem_singleton.mp hp))
  obtain ⟨k, hk, rfl⟩ := hp
  exact .inr ⟨k, Fin.le_def.mpr (by omega), rfl⟩

theorem keeps_ldRegs (s : State) (x : Reg) :
    KeepsOutside (fun p => p = .pc ∨ ∃ k : Reg, k ≤ x ∧ p = .reg k) s ((s.loadRegs (x.val + 1)).advance 2) := by
  refine ((keeps_loadRegs s (by omega)).mono fun p hp => ?_).trans
    (KeepsOutside.mono (keeps_advance _ 2) fun p hp => .inl (List.mem_singleton.mp hp))
  obtain ⟨k, hk, rfl⟩ := hp
  exact .inr ⟨k, Fin.le_def.mpr (by omega), rfl⟩

/-- Settles O50: the loop stores each register at its address and nothing at another. -/
theorem storeRegisterRange : Obligations.StoreRegisterRange := by
  refine fun s x => ⟨_, rfl, fun k hk => ⟨?_, ea_eq s k.val⟩,
    pc_of_next_advance rfl (storeRegs_pc s _) (storeRegs_cfg s _), keeps_stRegs s x⟩
  rw [← ea_eq, advance_memRead]
  exact storeRegs_at (by omega) k (by have := Fin.le_def.mp hk; omega)

/-- Settles O51: the loop loads each register of the range from its address, and no other register. -/
theorem loadRegisterRange : Obligations.LoadRegisterRange := by
  refine fun s x => ⟨_, rfl, fun k hk => ?_, pc_of_next_advance rfl (loadRegs_pc s _) (loadRegs_cfg s _),
    keeps_ldRegs s x⟩
  rw [← ea_eq, advance_getV, loadRegs_getV (by omega), if_pos (by have := Fin.le_def.mp hk; omega)]

/-! ### The frame of every instruction -/

/-- The fatal error an instruction raises while executing: only CALL with a full stack and RET with an empty one (R67,
R69, R110). -/
def State.execError (s : State) : Instr → Option FatalKind
  | .ret => if s.sp.val = 0 then some .callStackUnderflow else none
  | .call _ => if s.sp.val = 16 then some .callStackOverflow else none
  | _ => none

/-- The parts an instruction may write when it raises no error. -/
def State.Writes (s : State) (i : Instr) (p : Part) : Prop :=
  match i with
  | .cls => p = .pc ∨ ∃ x y, p = .cell x y
  | .ret => p ∈ [.pc, .stackDepth]
  | .call _ => p ∈ [.pc, .stackDepth] ∨ ∃ k : Fin 16, s.sp.val = k.val ∧ p = .stackEntry k
  | .sys _ => p ∈ [.pc, .outputs]
  | .jp _ | .jpV0 _ | .seImm _ _ | .sneImm _ _ | .seReg _ _ | .sneReg _ _ | .skp _ | .sknp _ => p ∈ [.pc]
  | .ldImm x _ | .addImm x _ | .ldReg x _ | .orReg x _ | .andReg x _ | .xorReg x _ | .ldVxDt x | .ldVxK x =>
    p ∈ [.reg x, .pc]
  | .addReg x _ | .sub x _ | .shr x _ | .subn x _ | .shl x _ => p ∈ [.reg x, .reg vf, .pc]
  | .rnd x _ => p ∈ [.reg x, .pc, .draws]
  | .ldI _ | .ldF _ => p ∈ [.index, .pc]
  | .addI _ => p ∈ [.reg vf, .index, .pc]
  | .ldB _ => p ∈ [.byte (s.ea 0), .byte (s.ea 1), .byte (s.ea 2), .pc]
  | .stRegs x => p = .pc ∨ ∃ k : Reg, k ≤ x ∧ p = .byte (s.ea k.val)
  | .ldRegs x => p = .pc ∨ ∃ k : Reg, k ≤ x ∧ p = .reg k
  | .ldDtVx _ => p ∈ [.delay, .pc]
  | .ldStVx _ => p ∈ [.sound, .pc]
  | .drw x y n => p = .pc ∨ p = .reg vf ∨ ∃ cx cy, p = .cell cx cy ∧ s.SpriteCovers (s.getV x) (s.getV y) n.val cx cy

theorem execError_eq_some_iff {i : Instr} {s : State} {kind : FatalKind} : s.execError i = some kind ↔
    (∃ nnn, i = .call nnn ∧ s.sp.val = 16 ∧ .callStackOverflow = kind) ∨
    (i = .ret ∧ s.sp.val = 0 ∧ .callStackUnderflow = kind) := by
  cases i <;> simp [State.execError]

theorem exec_ret_of_zero {s : State} (h : s.sp.val = 0) :
    exec .ret s = .next (s.raiseFatal .callStackUnderflow (encode .ret)) := if_pos h

theorem exec_call_of_full {s : State} {nnn : Addr} (h : s.sp.val = 16) :
    exec (.call nnn) s = .next (s.raiseFatal .callStackOverflow (encode (.call nnn))) := if_pos h

theorem exec_of_execError {i : Instr} {s : State} {kind : FatalKind} (h : s.execError i = some kind) :
    exec i s = .next (s.raiseFatal kind (encode i)) := by
  obtain ⟨nnn, rfl, hsp, rfl⟩ | ⟨rfl, hsp, rfl⟩ := execError_eq_some_iff.mp h
  · exact exec_call_of_full hsp
  · exact exec_ret_of_zero hsp

theorem depth_of_execError_none {i : Instr} {s : State} (h : s.execError i = none) :
    (i = .ret → 0 < s.sp.val) ∧ ((∃ nnn, i = .call nnn) → s.sp.val < 16) := by
  constructor
  · rintro rfl
    by_contra h0
    rw [execError_eq_some_iff.mpr (.inr ⟨rfl, by omega, rfl⟩)] at h
    cases h
  · rintro ⟨nnn, rfl⟩
    by_contra h16
    rw [execError_eq_some_iff.mpr (.inl ⟨nnn, rfl, by omega, rfl⟩)] at h
    cases h

/-- FX0A writes its register and pc at most. -/
theorem exists_keeps_ldVxK (s : State) (x : Reg) : ∃ t, exec (.ldVxK x) s = .next t ∧ KeepsAllBut [.reg x, .pc] s t := by
  simp only [exec, execLdVxK]
  cases s.cfg.fx0aMode <;> cases s.lowestKey
  case repoll.none => exact ⟨_, rfl, .refl _ s⟩
  case literalSkip.none => exact ⟨_, rfl, (keeps_advance s 2).mono (by simp)⟩
  all_goals exact ⟨_, rfl, (keeps_setV s x _).trans (keeps_advance _ _)⟩

/-- An instruction that raises no error goes on, and writes no part outside its own. -/
theorem exists_keeps_exec {i : Instr} {s : State} (h : s.execError i = none) :
    ∃ t, exec i s = .next t ∧ KeepsOutside (s.Writes i) s t := by
  obtain ⟨hret, hcall⟩ := depth_of_execError_none h
  cases i
  case cls => exact ⟨_, rfl, keeps_cls s⟩
  case ret =>
    exact ⟨_, exec_ret_of_pos (hret rfl),
      KeepsOutside.mono ((keeps_pop s).trans (keeps_setPc _ _)) (by simp [State.Writes])⟩
  case call nnn =>
    have hsp : s.sp.val < 16 := hcall ⟨nnn, rfl⟩
    refine ⟨_, exec_call_of_lt hsp, (KeepsOutside.mono (keeps_push s _ ⟨s.sp.val, hsp⟩ rfl) fun p hp => ?_).trans
      (KeepsOutside.mono (keeps_setPc _ _) fun p hp => ?_)⟩
    · obtain rfl | rfl : p = .stackDepth ∨ p = .stackEntry ⟨s.sp.val, hsp⟩ := by simpa using hp
      · exact .inl (by simp)
      · exact .inr ⟨_, rfl, rfl⟩
    · obtain rfl := List.mem_singleton.mp hp
      exact .inl (by simp)
  case sys nnn => exact ⟨_, rfl, KeepsOutside.mono ((keeps_emit s _).trans (keeps_advance _ 2)) (by simp [State.Writes])⟩
  case jp | jpV0 => exact ⟨_, rfl, keeps_setPc s _⟩
  case seImm | sneImm | seReg | sneReg | skp | sknp => exact ⟨_, rfl, keeps_skipIf s _⟩
  case ldImm | addImm | ldReg | orReg | andReg | xorReg | ldVxDt =>
    exact ⟨_, rfl, (keeps_setV s _ _).trans (keeps_advance _ 2)⟩
  case ldVxK x => exact exists_keeps_ldVxK s x
  case addReg | sub | subn => exact ⟨_, rfl, (keeps_resultThenFlag s _ _ _).trans (keeps_advance _ 2)⟩
  case shr | shl =>
    exact ⟨_, rfl, KeepsOutside.mono ((keeps_flagThenResult s _ _ _).trans (keeps_advance _ 2)) (by simp [State.Writes])⟩
  case rnd =>
    exact ⟨_, rfl, KeepsOutside.mono (((keeps_countDraw s).trans (keeps_setV _ _ _)).trans (keeps_advance _ 2))
      (by simp [State.Writes])⟩
  case ldI | ldF => exact ⟨_, rfl, (keeps_setI s _).trans (keeps_advance _ 2)⟩
  case addI => exact ⟨_, rfl, ((keeps_setV s vf _).trans (keeps_setI _ _)).trans (keeps_advance _ 2)⟩
  case ldB =>
    exact ⟨_, rfl, (((keeps_memWrite s _ _).trans (keeps_memWrite _ _ _)).trans (keeps_memWrite _ _ _)).trans
      (keeps_advance _ 2)⟩
  case stRegs x => exact ⟨_, rfl, keeps_stRegs s x⟩
  case ldRegs x => exact ⟨_, rfl, keeps_ldRegs s x⟩
  case ldDtVx => exact ⟨_, rfl, (keeps_setDt s _).trans (keeps_advance _ 2)⟩
  case ldStVx => exact ⟨_, rfl, (keeps_setSt s _).trans (keeps_advance _ 2)⟩
  case drw x y n => exact ⟨_, exec_drw s x y n, keeps_drw s x y n⟩

/-- The frame of an instruction that raises no error. -/
theorem keeps_exec {i : Instr} {s t : State} (h : exec i s = .next t) (hok : s.execError i = none) :
    KeepsOutside (s.Writes i) s t := by
  obtain ⟨t', ht, hkeeps⟩ := exists_keeps_exec hok
  rw [h] at ht
  cases ht
  exact hkeeps

end Sys2Proof.Machine
end


section
/-! SUPPORT. Which instructions can write each part of the state (10_state.md, 20_memory.md R36), read off the table
`State.Writes`. -/
namespace Sys2Proof.Machine

section
variable {i : Instr} {s t : State}

/-- A part that an instruction does not write, and an error entry does not either, reads the same after it. -/
theorem same_of_not_writes {p : Part} (h : exec i s = .next t) (hp : ¬ s.Writes i p)
    (hentry : p ∉ [.err, .running, .tone, .batch, .outputs]) : p.same s t := by
  cases herr : s.execError i with
  | none => exact keeps_exec h herr p hp
  | some kind =>
    rw [exec_of_execError herr] at h
    cases h
    exact keeps_raiseFatal s kind _ p hentry

theorem not_writes_control {p : Part} (h : s.Writes i p) :
    p ∉ [.running, .err, .tone, .cfg, .batch, .inputs] ∧ ∀ k, p ≠ .key k := by
  cases p
  case key | running | err | tone | cfg | batch | inputs => cases i <;> simp [State.Writes] at h
  all_goals simp

theorem writes_byte {a : Addr} (h : s.Writes i (.byte a)) : ∃ x, i = .ldB x ∨ i = .stRegs x := by
  revert h
  cases i <;> simp [State.Writes]

theorem writes_index (h : s.Writes i .index) : (∃ nnn, i = .ldI nnn) ∨ ∃ x, i = .addI x ∨ i = .ldF x := by
  revert h
  cases i <;> simp [State.Writes]

theorem writes_stackDepth (h : s.Writes i .stackDepth) : i = .ret ∨ ∃ nnn, i = .call nnn := by
  revert h
  cases i <;> simp [State.Writes]

theorem writes_stackEntry {k : Fin 16} (h : s.Writes i (.stackEntry k)) : ∃ nnn, i = .call nnn := by
  revert h
  cases i <;> simp [State.Writes]

theorem writes_cell {x : Fin 64} {y : Fin 32} (h : s.Writes i (.cell x y)) : i = .cls ∨ ∃ x y n, i = .drw x y n := by
  revert h
  cases i <;> simp [State.Writes]

theorem writes_delay (h : s.Writes i .delay) : ∃ x, i = .ldDtVx x := by
  revert h
  cases i <;> simp [State.Writes]

theorem writes_sound (h : s.Writes i .sound) : ∃ x, i = .ldStVx x := by
  revert h
  cases i <;> simp [State.Writes]

theorem writes_outputs (h : s.Writes i .outputs) : ∃ nnn, i = .sys nnn := by
  revert h
  cases i <;> simp [State.Writes]

/-- Settles O24: CALL and RET with the wrong depth enter the error, and no instruction's own parts are of the run control. -/
theorem instructionsLeaveTheRunControlAlone : Obligations.InstructionsLeaveTheRunControlAlone := by
  intro i s
  cases herr : s.execError i with
  | none =>
    obtain ⟨t, ht, hkeeps⟩ := exists_keeps_exec herr
    exact ⟨t, ht, .inr (.inr (hkeeps.mono fun _ => not_writes_control))⟩
  | some kind =>
    refine ⟨_, exec_of_execError herr, ?_⟩
    obtain ⟨nnn, rfl, hsp, rfl⟩ | ⟨rfl, hsp, rfl⟩ := execError_eq_some_iff.mp herr
    · exact .inl ⟨nnn, rfl, hsp, rfl⟩
    · exact .inr (.inl ⟨rfl, hsp, rfl⟩)

/-- Settles O25: an instruction that is none of a part's writers leaves the part alone, and so does an error entry. -/
theorem eachPartHasItsWriters : Obligations.EachPartHasItsWriters := by
  intro i s t h
  refine ⟨fun hi a => ?_, fun hldI hi => ?_, fun hret hcall => ⟨?_, ?_⟩, fun hcls hdrw => ?_, fun hi => ?_,
    fun hi => ?_⟩
  · refine same_of_not_writes (p := .byte a) h (fun hw => ?_) (by simp)
    obtain ⟨x, hx | hx⟩ := writes_byte hw
    · exact (hi x).1 hx
    · exact (hi x).2 hx
  · refine same_of_not_writes (p := .index) h (fun hw => ?_) (by simp)
    obtain ⟨nnn, hx⟩ | ⟨x, hx | hx⟩ := writes_index hw
    · exact hldI nnn hx
    · exact (hi x).1 hx
    · exact (hi x).2 hx
  · refine same_of_not_writes (p := .stackDepth) h (fun hw => ?_) (by simp)
    obtain hx | ⟨nnn, hx⟩ := writes_stackDepth hw
    · exact hret hx
    · exact hcall nnn hx
  · refine Vector.ext fun k hk => ?_
    refine same_of_not_writes (p := .stackEntry ⟨k, hk⟩) h (fun hw => ?_) (by simp)
    obtain ⟨nnn, hx⟩ := writes_stackEntry hw
    exact hcall nnn hx
  · refine display_ext fun x y => ?_
    refine same_of_not_writes (p := .cell x y) h (fun hw => ?_) (by simp)
    obtain hx | ⟨x, y, n, hx⟩ := writes_cell hw
    · exact hcls hx
    · exact hdrw x y n hx
  · refine same_of_not_writes (p := .delay) h (fun hw => ?_) (by simp)
    obtain ⟨x, hx⟩ := writes_delay hw
    exact hi x hx
  · refine same_of_not_writes (p := .sound) h (fun hw => ?_) (by simp)
    obtain ⟨x, hx⟩ := writes_sound hw
    exact hi x hx

/-- Settles O26: VF is among the parts of exactly these instructions. -/
theorem onlyFlagWritersChangeVf : Obligations.OnlyFlagWritersChangeVf := by
  intro i s t h hvf
  have hw : s.Writes i (.reg vf) := by
    by_contra hw
    exact hvf (same_of_not_writes h hw (by simp))
  clear h hvf
  cases i
  case ldRegs x =>
    have hx : vf ≤ x := by simpa [State.Writes] using hw
    obtain rfl : x = vf := le_antisymm (Fin.le_last x) hx
    simp
  all_goals simp_all [State.Writes, eq_comm (a := vf)]

end

end Sys2Proof.Machine
end


section
/-! SUPPORT. The parts of the state that no instruction reads: entries of the stack at SP and above, ST, the run control and
the tone (10_state.md R23, R27, R30). -/
namespace Sys2Proof.Machine

/-- The parts of the state that no instruction but CALL and RET looks at. -/
structure Hidden where
  stack : Vector Addr 16
  st : Byte
  running : Bool
  err : Option FatalRecord
  tone : Bool

/-- The hidden parts of a state. -/
def State.hidden (s : State) : Hidden := ⟨s.stack, s.st, s.running, s.err, s.tone⟩

/-- The state with other hidden parts. -/
def State.overlay (s : State) (h : Hidden) : State :=
  { s with stack := h.stack, st := h.st, running := h.running, err := h.err, tone := h.tone }

section
variable (s : State) (h : Hidden)

theorem drawRows_overlay (vx vy n : Nat) : (s.overlay h).drawRows vx vy n = s.drawRows vx vy n := by
  induction n with
  | zero => rfl
  | succ n ih =>
    rw [State.drawRows, ih]
    rfl

theorem memWrite_overlay (a : Addr) (b : Byte) : (s.overlay h).memWrite a b = (s.memWrite a b).overlay h := rfl

theorem advance_overlay (k : Nat) : (s.overlay h).advance k = (s.advance k).overlay h := rfl

theorem storeRegs_overlay (n : Nat) : (s.overlay h).storeRegs n = (s.storeRegs n).overlay h := by
  induction n with
  | zero => rfl
  | succ n ih =>
    rw [State.storeRegs, ih]
    rfl

theorem loadRegs_overlay (n : Nat) : (s.overlay h).loadRegs n = (s.loadRegs n).overlay h := by
  induction n with
  | zero => rfl
  | succ n ih =>
    rw [State.loadRegs, ih]
    rfl

end

/-- An instruction other than CALL, RET and FX18 carries the hidden parts along, whatever they are. -/
theorem exec_overlay {i : Instr} (s : State) (hret : i ≠ .ret) (hcall : ∀ nnn, i ≠ .call nnn)
    (hst : ∀ x, i ≠ .ldStVx x) :
    ∃ t, exec i s = .next t ∧ t.hidden = s.hidden ∧ ∀ h, exec i (s.overlay h) = .next (t.overlay h) := by
  cases i
  case ret => exact absurd rfl hret
  case call nnn => exact absurd rfl (hcall nnn)
  case ldStVx x => exact absurd rfl (hst x)
  case drw x y n =>
    refine ⟨_, exec_drw s x y n, rfl, fun h => ?_⟩
    rw [exec_drw, State.drawn, drawRows_overlay]
    rfl
  case ldB x =>
    have hea (h : Hidden) (k : Nat) : (s.overlay h).ea k = s.ea k := rfl
    have hx (h : Hidden) : (s.overlay h).getV x = s.getV x := rfl
    refine ⟨_, rfl, by simp [State.hidden], fun h => ?_⟩
    simp only [exec, execLdB, hea, hx, memWrite_overlay, advance_overlay]
  case stRegs x =>
    obtain ⟨m, hm, -⟩ := storeRegs_spec s (x.val + 1)
    refine ⟨_, rfl, by rw [hm]; rfl, fun h => ?_⟩
    simp only [exec, execStRegs, storeRegs_overlay, advance_overlay]
  case ldRegs x =>
    obtain ⟨v, hv⟩ := loadRegs_spec s (x.val + 1)
    refine ⟨_, rfl, by rw [hv]; rfl, fun h => ?_⟩
    simp only [exec, execLdRegs, loadRegs_overlay, advance_overlay]
  case ldVxK x =>
    have hmode (h : Hidden) : (s.overlay h).cfg = s.cfg := rfl
    have hkey (h : Hidden) : (s.overlay h).lowestKey = s.lowestKey := rfl
    simp only [exec, execLdVxK, hmode, hkey]
    cases s.cfg.fx0aMode <;> cases s.lowestKey
    all_goals exact ⟨_, rfl, rfl, fun _ => rfl⟩
  all_goals exact ⟨_, rfl, rfl, fun _ => rfl⟩

/-! ### CALL and RET by the depth of the stack -/

section
variable {s : State}

/-- CALL with room, field by field (R69). -/
theorem exec_call_fields {nnn : Addr} (h : s.sp.val < 16) :
    exec (.call nnn) s = .next
      { s with
        stack := s.stack.set s.sp.val (s.pc.setWidth 12)
        sp := ⟨s.sp.val + 1, by omega⟩
        pc := nnn.toPc } := by
  rw [exec_call_of_lt h, push_of_lt s _ h]
  rfl

end

/-- CALL and RET by the depth of the stack, FX18, and every other instruction. -/
theorem hidden_cases (i : Instr) (s : State) :
    (i = .ret ∧ s.sp.val = 0) ∨ (i = .ret ∧ 0 < s.sp.val) ∨
    (∃ nnn, i = .call nnn ∧ s.sp.val = 16) ∨ (∃ nnn, i = .call nnn ∧ s.sp.val < 16) ∨
    (∃ x, i = .ldStVx x) ∨ (i ≠ .ret ∧ (∀ nnn, i ≠ .call nnn) ∧ ∀ x, i ≠ .ldStVx x) := by
  cases i
  case ret =>
    obtain hsp | hsp := Nat.eq_zero_or_pos s.sp.val
    · exact .inl ⟨rfl, hsp⟩
    · exact .inr (.inl ⟨rfl, hsp⟩)
  case call nnn =>
    obtain hsp | hsp : s.sp.val = 16 ∨ s.sp.val < 16 := by omega
    · exact .inr (.inr (.inl ⟨nnn, rfl, hsp⟩))
    · exact .inr (.inr (.inr (.inl ⟨nnn, rfl, hsp⟩)))
  case ldStVx x => exact .inr (.inr (.inr (.inr (.inl ⟨x, rfl⟩))))
  all_goals exact .inr (.inr (.inr (.inr (.inr ⟨nofun, nofun, nofun⟩))))

/-- Settles O27: RET reads an entry below SP, CALL writes the one at SP, and no other instruction looks at the stack. -/
theorem deadStackEntriesAreUnobservable : Obligations.DeadStackEntriesAreUnobservable := by
  intro i s stack hlive
  obtain ⟨rfl, hsp⟩ | ⟨rfl, hsp⟩ | ⟨nnn, rfl, hsp⟩ | ⟨nnn, rfl, hsp⟩ | ⟨x, rfl⟩ |
    ⟨hret, hcall, hst⟩ := hidden_cases i s
  · exact ⟨_, stack, exec_ret_of_zero hsp, exec_ret_of_zero (s := { s with stack := stack }) hsp, hlive⟩
  · have htop : State.topEntry { s with stack := stack } = s.topEntry :=
      hlive ⟨s.sp.val - 1, by omega⟩ (Nat.sub_lt hsp one_pos)
    refine ⟨_, stack, exec_ret_of_pos hsp, ?_, fun k hk => hlive k (lt_of_lt_of_le hk (Nat.sub_le _ _))⟩
    rw [exec_ret_of_pos (s := { s with stack := stack }) hsp, htop]
    rfl
  · exact ⟨_, stack, exec_call_of_full hsp, exec_call_of_full (s := { s with stack := stack }) hsp, hlive⟩
  · refine ⟨_, _, exec_call_fields hsp, exec_call_fields (s := { s with stack := stack }) hsp, fun k hk => ?_⟩
    simp only [Vector.getElem_set]
    split
    · rfl
    · have hle : k.val < s.sp.val + 1 := hk
      exact hlive k (by omega)
  · exact ⟨_, stack, rfl, rfl, hlive⟩
  · obtain ⟨t, ht, hhid, hover⟩ := exec_overlay s hret hcall hst
    have hsp : t.sp = s.sp := same_of_not_writes (p := .stackDepth) ht
      (fun hw => (writes_stackDepth hw).elim hret (not_exists.mpr hcall)) (by simp)
    have hstack : t.stack = s.stack := congrArg Hidden.stack hhid
    refine ⟨t, stack, ht, (hover { s.hidden with stack := stack }).trans ?_, fun k hk => ?_⟩
    · rw [← hhid]
      rfl
    · rw [hstack, hlive k (hsp ▸ hk)]

/-- Settles O28: CALL and RET overwrite the run control, the record and the tone where they raise and carry them along where
they do not, FX18 overwrites ST, and every other instruction carries all of them along. -/
theorem hiddenStateIsNeverRead : Obligations.HiddenStateIsNeverRead := by
  refine ⟨fun i s b hst => ?sound, fun x s b => rfl, fun i s run tone err => ?control⟩
  case sound =>
    obtain ⟨rfl, hsp⟩ | ⟨rfl, hsp⟩ | ⟨nnn, rfl, hsp⟩ | ⟨nnn, rfl, hsp⟩ | ⟨x, rfl⟩ |
      ⟨hret, hcall, -⟩ := hidden_cases i s
    · exact ⟨_, exec_ret_of_zero hsp, exec_ret_of_zero (s := { s with st := b }) hsp⟩
    · exact ⟨_, exec_ret_of_pos hsp, exec_ret_of_pos (s := { s with st := b }) hsp⟩
    · exact ⟨_, exec_call_of_full hsp, exec_call_of_full (s := { s with st := b }) hsp⟩
    · exact ⟨_, exec_call_fields hsp, exec_call_fields (s := { s with st := b }) hsp⟩
    · exact absurd rfl (hst x)
    · obtain ⟨t, ht, hhid, hover⟩ := exec_overlay s hret hcall hst
      refine ⟨t, ht, (hover { s.hidden with st := b }).trans ?_⟩
      rw [← hhid]
      rfl
  case control =>
    let s' : State := { s with running := run, tone := tone, err := err }
    obtain ⟨rfl, hsp⟩ | ⟨rfl, hsp⟩ | ⟨nnn, rfl, hsp⟩ | ⟨nnn, rfl, hsp⟩ | ⟨x, rfl⟩ |
      ⟨hret, hcall, hst⟩ := hidden_cases i s
    · exact ⟨_, exec_ret_of_zero hsp, .inl (exec_ret_of_zero (s := s') hsp)⟩
    · exact ⟨_, exec_ret_of_pos hsp, .inr (exec_ret_of_pos (s := s') hsp)⟩
    · exact ⟨_, exec_call_of_full hsp, .inl (exec_call_of_full (s := s') hsp)⟩
    · exact ⟨_, exec_call_fields hsp, .inr (exec_call_fields (s := s') hsp)⟩
    · exact ⟨_, rfl, .inr rfl⟩
    · obtain ⟨t, ht, hhid, hover⟩ := exec_overlay s hret hcall hst
      refine ⟨t, ht, .inr ((hover { s.hidden with running := run, tone := tone, err := err }).trans ?_)⟩
      rw [← hhid]
      rfl

end Sys2Proof.Machine
end


section
/-! SUPPORT. The operations of the host: what each sets and what it leaves alone (60_exceptions.md R116 to R118,
70_reset_and_hazards.md R123, R124). -/
namespace Sys2Proof.Machine

/-! ### start and stop (R117) -/

theorem startRun_of_running {s : State} (h : s.running = true) : s.startRun = s := if_pos h

theorem stopRun_of_running {s : State} (h : s.running = true) : s.stopRun = { s with running := false, tone := false } :=
  if_pos h

theorem stopRun_of_stopped {s : State} (h : s.running = false) : s.stopRun = s := by
  simp [State.stopRun, h]

theorem startRun_running (s : State) : s.startRun.running = true := by
  unfold State.startRun
  split
  · assumption
  · rfl

theorem stopRun_running (s : State) : s.stopRun.running = false := by
  unfold State.stopRun
  split
  · rfl
  · exact eq_false_of_ne_true ‹_›

theorem keeps_startRun (s : State) : KeepsAllBut [.pc, .err, .running] s s.startRun := by
  cases hr : s.running with
  | true =>
    rw [startRun_of_running hr]
    exact .refl _ s
  | false =>
    rw [startRun_of_stopped hr]
    intro p hp
    cases p
    case pc | err | running => simp at hp
    all_goals rfl

theorem keeps_stopRun (s : State) : KeepsAllBut [.running, .tone] s s.stopRun := by
  cases hr : s.running with
  | true =>
    rw [stopRun_of_running hr]
    intro p hp
    cases p
    case running | tone => simp at hp
    all_goals rfl
  | false =>
    rw [stopRun_of_stopped hr]
    exact .refl _ s

/-- Settles O15: each operation is one update under its test of `running`, which the update makes fail. -/
theorem startAndStop : Obligations.StartAndStop := by
  refine fun s => ⟨startRun_of_running, fun hr => ?_, stopRun_of_stopped, fun hr => ?_,
    startRun_of_running (startRun_running s), stopRun_of_stopped (stopRun_running s)⟩
  · have hkeeps := keeps_startRun s
    rw [startRun_of_stopped hr] at hkeeps ⊢
    exact ⟨rfl, rfl, rfl, hkeeps⟩
  · have hkeeps := keeps_stopRun s
    rw [stopRun_of_running hr] at hkeeps ⊢
    exact ⟨rfl, rfl, hkeeps⟩

/-! ### reset (R33, R123) -/

/-- The parts of the block's own state, which `reset` sets; the others are the host's, the parameters and the model's
lists. -/
def Part.isBlock (p : Part) : Prop := p ∉ [.cfg, .inputs, .outputs, .draws] ∧ ∀ k, p ≠ .key k

theorem keeps_resetBlock (s : State) : KeepsOutside Part.isBlock s s.resetBlock := by
  intro p hp
  cases p
  case key | cfg | inputs | outputs | draws => rfl
  all_goals exact absurd ⟨by simp, by simp⟩ hp

/-- Settles O16: each register is read off the reset value of its field, and memory is unlisted everywhere. -/
theorem resetGivesTheResetValues : Obligations.ResetGivesTheResetValues := by
  refine fun s => ⟨fun x => ?_, rfl, rfl, rfl, fun k => ?_, rfl, rfl, cell_clear, rfl, rfl, rfl, fun a => rfl,
    keeps_resetBlock s⟩
  · simp [State.getV]
  · simp

/-- Settles O17: the power-on state is written out field by field as the reset values, and each glyph is five bytes of the
default font. -/
theorem powerOnIsReset : Obligations.PowerOnIsReset := by
  refine ⟨rfl, rfl, rfl, rfl, rfl, rfl, by decide, by decide, by decide, by decide, by decide, by decide,
    by decide, by decide, by decide, by decide, by decide, by decide, by decide, by decide, by decide, by decide,
    fun a ha => ?_⟩
  exact dif_neg ha.not_gt

/-! ### load (R124) -/

/-- Writing a sequence of bytes leaves every byte at another address alone. -/
theorem memRead_writeBytes_ne {s : State} {a : Nat} {bs : List Byte} {q : Addr}
    (hq : ∀ k < bs.length, q ≠ BitVec.ofNat 12 (a + k)) : (s.writeBytes a bs).memRead q = s.memRead q := by
  induction bs generalizing s a with
  | nil => rfl
  | cons b bs ih =>
    have hhead : q ≠ BitVec.ofNat 12 a := hq 0 (by simp)
    have htail : ∀ k < bs.length, q ≠ BitVec.ofNat 12 (a + 1 + k) := fun k hk => by
      rw [show a + 1 + k = a + (k + 1) by omega]
      exact hq (k + 1) (by simpa using hk)
    rw [State.writeBytes, ih htail, memRead_memWrite_ne _ _ hhead]

/-- A sequence of bytes that does not pass the end of memory reads back, byte by byte. -/
theorem memRead_writeBytes {s : State} {a : Nat} {bs : List Byte} (hfit : a + bs.length ≤ 4096) {k : Nat}
    (hk : k < bs.length) : (s.writeBytes a bs).memRead (BitVec.ofNat 12 (a + k)) = bs[k] := by
  induction bs generalizing s a k with
  | nil => simp at hk
  | cons b bs ih =>
    rw [List.length_cons] at hfit hk
    cases k with
    | zero =>
      rw [State.writeBytes, memRead_writeBytes_ne fun k hk h => ?_]
      · exact memRead_memWrite_same s _ b
      · have := congrArg BitVec.toNat h
        simp only [BitVec.toNat_ofNat] at this
        omega
    | succ k =>
      rw [State.writeBytes, show a + (k + 1) = a + 1 + k by omega, ih (by omega) (by omega)]
      rfl

/-- A run of writes leaves everything but its own bytes alone. -/
theorem keeps_writeBytes (s : State) (a : Nat) (bs : List Byte) :
    KeepsOutside (fun p => ∃ k, k < bs.length ∧ p = .byte (BitVec.ofNat 12 (a + k))) s (s.writeBytes a bs) := by
  intro p hp
  cases p with
  | byte q => exact memRead_writeBytes_ne fun k hk hq => hp ⟨k, hk, congrArg Part.byte hq⟩
  | _ =>
    obtain ⟨m, hm, -⟩ := writeBytes_spec s a bs
    rw [hm]
    rfl

/-- The state that a load which fits leaves: the reset block with the program in memory. -/
theorem loadProgram_eq_writeBytes {s : State} {p : List Byte} (h : 0x200 + p.length ≤ 4096) :
    s.loadProgram p = s.resetBlock.writeBytes 0x200 p := by
  obtain ⟨m, hm, -⟩ := writeBytes_spec s.resetBlock 0x200 p
  rw [loadProgram_of_fits h, hm]
  rfl

/-- A load is refused, or gives the reset block with another memory in canonical form. -/
theorem loadProgram_cases (s : State) (p : List Byte) :
    s.loadProgram p = s.emit .programTooLarge ∨
    ∃ m, s.loadProgram p = { s.resetBlock with mem := m } ∧ Memory.wf s.cfg.font m := by
  by_cases hfit : 0x200 + p.length ≤ 4096
  · obtain ⟨m, hm, hwf⟩ := writeBytes_spec s.resetBlock 0x200 p
    exact .inr ⟨m, (loadProgram_eq_writeBytes hfit).trans hm, hwf (wf_nil _)⟩
  · exact .inl (loadProgram_of_tooLong (not_le.mp hfit))

/-- Settles O19: the program is copied byte by byte into the reset block, and a load that does not fit sends its event
alone. -/
theorem loadCopiesTheProgram : Obligations.LoadCopiesTheProgram := by
  refine fun s p => ⟨fun hlen => ?_, fun hlen => ?_⟩
  · have hfit : 0x200 + p.length ≤ 4096 := by omega
    have hkeeps := keeps_writeBytes s.resetBlock 0x200 p
    rw [loadProgram_eq_writeBytes hfit]
    refine ⟨fun k hk => memRead_writeBytes hfit hk, ?_, ?_, hkeeps⟩
    · exact congrArg BitVec.toNat (hkeeps .pc (by simp))
    · exact hkeeps .running (by simp)
  · rw [loadProgram_of_tooLong (by omega)]
    exact keeps_emit s _

/-! ### setKey (R118) -/

theorem setKeyInput_of_lt {s : State} {k : Nat} {pressed : Bool} (h : k < 16) :
    s.setKeyInput k pressed = { s with key := s.key.set k pressed } := dif_pos h

theorem setKeyInput_of_ge {s : State} {k : Nat} {pressed : Bool} (h : 15 < k) :
    s.setKeyInput k pressed = s.emit .keyRefused := dif_neg (by omega)

/-- A key change is refused, or sets the one key it names. -/
theorem setKeyInput_cases (s : State) (k : Nat) (pressed : Bool) :
    s.setKeyInput k pressed = s.emit .keyRefused ∨
    ∃ j : Fin 16, j.val = k ∧ s.setKeyInput k pressed = { s with key := s.key.set j.val pressed } := by
  by_cases hk : k < 16
  · exact .inr ⟨⟨k, hk⟩, rfl, setKeyInput_of_lt hk⟩
  · exact .inl (setKeyInput_of_ge (by omega))

theorem setKeyInput_key (s : State) (k : Fin 16) (pressed : Bool) :
    (s.setKeyInput k.val pressed).key[k.val] = pressed := by
  simp [setKeyInput_of_lt k.isLt]

theorem keeps_setKeyInput (s : State) (k : Fin 16) (pressed : Bool) :
    KeepsAllBut [.key k] s (s.setKeyInput k.val pressed) := by
  rw [setKeyInput_of_lt k.isLt]
  intro p hp
  cases p with
  | key j =>
    have hne : k.val ≠ j.val := fun h => hp (by simp [Fin.ext h])
    exact Vector.getElem_set_ne k.isLt j.isLt hne
  | _ => rfl

/-- A key change, refused or not, writes keys and events at most. -/
theorem keeps_setKeyInput_any (s : State) (k : Nat) (pressed : Bool) :
    KeepsOutside (fun p => p = .outputs ∨ ∃ j, p = .key j) s (s.setKeyInput k pressed) := by
  by_cases hk : k < 16
  · exact KeepsOutside.mono (keeps_setKeyInput s ⟨k, hk⟩ pressed) (by simp)
  · rw [setKeyInput_of_ge (by omega)]
    exact KeepsOutside.mono (keeps_emit s _) (by simp)

/-! ### tick (R108, step 1) -/

theorem beginTick_of_running {s : State} (h : s.running = true) :
    s.beginTick = { s with dt := countDown s.dt, st := countDown s.st, batch := some s.cfg.cyclesPerTick } := if_pos h

theorem beginTick_of_stopped {s : State} (h : s.running = false) : s.beginTick = s := by
  simp [State.beginTick, h]

/-- A tick that begins writes the timers and opens the batch. -/
theorem keeps_beginTick (s : State) : KeepsAllBut [.delay, .sound, .batch] s s.beginTick := by
  cases hr : s.running with
  | true =>
    rw [beginTick_of_running hr]
    intro p hp
    cases p
    case delay | sound | batch => simp at hp
    all_goals rfl
  | false =>
    rw [beginTick_of_stopped hr]
    exact .refl _ s

theorem countDown_toNat (t : Byte) : (countDown t).toNat = t.toNat - 1 := by
  unfold countDown
  split
  · rename_i h
    simp [h]
  · rename_i h
    have : t.toNat ≠ 0 := fun h0 => h (BitVec.eq_of_toNat_eq h0)
    bv_omega

/-- A timer that a tick changes was not 0, and loses one. -/
theorem countDown_of_ne {t : Byte} (h : countDown t ≠ t) : (countDown t).toNat + 1 = t.toNat := by
  have hne : (countDown t).toNat ≠ t.toNat := fun e => h (BitVec.eq_of_toNat_eq e)
  rw [countDown_toNat] at hne ⊢
  omega

/-! ### Taking an input -/

theorem keeps_dropInput (s : State) (rest : List HostInput) : KeepsAllBut [.inputs] s { s with inputs := rest } := by
  intro p hp
  cases p
  case inputs => simp at hp
  all_goals rfl

/-- Between ticks, a step carries out the oldest input. -/
theorem step_of_inputs {s : State} {w : Nat} {op : HostOp} {rest : List HostInput} (hb : s.batch = none)
    (h : s.inputs = ⟨w, op⟩ :: rest) : step s = .next ({ s with inputs := rest }.deliver op) := by
  rw [step_host hb, takeInput_cons h]

/-- Inside a tick, a step carries out a key change that is due. -/
theorem step_of_keyDue {s : State} {n k : Nat} {pressed : Bool} {rest : List HostInput} (hb : s.batch = some n)
    (h : s.inputs = ⟨0, .setKey k pressed⟩ :: rest) :
    step s = .next (State.setKeyInput { s with inputs := rest } k pressed) := by
  rw [step_keypad hb (keyDue_of_inputs h), takeInput_cons h]
  rfl

/-- Settles O60: between ticks the step carries out the oldest input. -/
theorem stepPerformsTheHostOperation : Obligations.StepPerformsTheHostOperation :=
  fun _ _ _ hb => ⟨step_of_inputs hb, fun _ => step_of_inputs hb, step_of_inputs hb, step_of_inputs hb,
    fun _ _ => step_of_inputs hb⟩

/-- Settles O20: an index below 16 sets its key and one above is refused, also when the change is due inside a tick. -/
theorem setKeySetsOneKey : Obligations.SetKeySetsOneKey := by
  refine ⟨fun s pressed => ⟨fun k => ⟨setKeyInput_key s k pressed, keeps_setKeyInput s k pressed⟩, fun k hk => ?_⟩,
    fun s n pressed rest hb => ⟨fun k hin => ?_, fun k hk hin => ?_⟩⟩
  · rw [setKeyInput_of_ge hk]
    exact ⟨rfl, keeps_emit s _⟩
  · have hkeeps := keeps_setKeyInput { s with inputs := rest } k pressed
    exact ⟨_, step_of_keyDue hb hin, setKeyInput_key _ k pressed, hkeeps .inputs (by simp),
      KeepsAllBut.mono ((keeps_dropInput s rest).trans hkeeps) (by simp)⟩
  · refine ⟨_, step_of_keyDue hb hin, ?_⟩
    rw [setKeyInput_of_ge hk]
    exact ⟨rfl, rfl, (keeps_dropInput s rest).trans (keeps_emit _ _)⟩

/-- Settles O11: the tick's one decrement is `countDown` on each timer, and a stopped run has no tick. -/
theorem tickCountsTimersDownOnce : Obligations.TickCountsTimersDownOnce := by
  refine fun s w rest hb hin => ⟨fun hr => ?_, fun hr => ?_⟩
  · have hkeeps := (keeps_dropInput s rest).trans (keeps_beginTick _)
    refine ⟨_, step_of_inputs hb hin, ?_⟩
    rw [State.deliver]
    rw [beginTick_of_running (s := { s with inputs := rest }) hr] at hkeeps ⊢
    exact ⟨countDown_toNat _, countDown_toNat _, rfl, rfl, hkeeps.mono (by simp)⟩
  · refine ⟨_, step_of_inputs hb hin, ?_⟩
    rw [State.deliver, beginTick_of_stopped (s := { s with inputs := rest }) hr]
    exact ⟨rfl, keeps_dropInput s rest⟩

/-- Settles O13: the end of a tick sets the tone from `running` and ST. -/
theorem tickEndSamplesTheTone : Obligations.TickEndSamplesTheTone := by
  refine fun s n hb hk hend => ⟨_, step_clock hb hk hend, ?_, rfl, keeps_endTick s⟩
  simp [BitVec.toNat_eq]

/-- Of the host's operations only `start` sets `running`. -/
theorem eq_start_of_deliver_running {s : State} {op : HostOp} (hr : s.running = false)
    (h : (s.deliver op).running = true) : op = .start := by
  cases op with
  | start => rfl
  | reset => cases h
  | load p =>
    rw [State.deliver] at h
    obtain hload | ⟨m, hload, -⟩ := loadProgram_cases s p
    · rw [hload, emit_running, hr] at h
      cases h
    · rw [hload] at h
      cases h
  | stop =>
    rw [State.deliver, stopRun_of_stopped hr, hr] at h
    cases h
  | setKey k pressed =>
    have hrun : (s.setKeyInput k pressed).running = s.running := keeps_setKeyInput_any s k pressed .running (by simp)
    rw [State.deliver, hrun, hr] at h
    cases h
  | tick =>
    rw [State.deliver, beginTick_of_stopped hr, hr] at h
    cases h

/-- Settles O10: a halted run is between ticks, so its step takes an input, and of the six operations only `start` sets
`running`. -/
theorem haltedRunStaysHalted : Obligations.HaltedRunStaysHalted := by
  refine ⟨fun s ⟨hr, hb⟩ hin => ?_, fun s w op rest ⟨hr, hb⟩ hin hop => ?_, fun s t ⟨hr, hb⟩ ht hrun => ?_⟩
  · rw [step_host hb, State.takeInput, hin]
  · refine ⟨_, step_of_inputs hb hin, ?_⟩
    have hdrop : KeepsOutside (fun p => p = .inputs ∨ p = .outputs ∨ ∃ k, p = .key k) s { s with inputs := rest } :=
      KeepsOutside.mono (keeps_dropInput s rest) (by simp)
    obtain rfl | rfl | ⟨k, pressed, rfl⟩ := hop
    · rw [State.deliver, stopRun_of_stopped (s := { s with inputs := rest }) hr]
      exact ⟨⟨hr, hb⟩, rfl, hdrop⟩
    · rw [State.deliver, beginTick_of_stopped (s := { s with inputs := rest }) hr]
      exact ⟨⟨hr, hb⟩, rfl, hdrop⟩
    · have hkeeps := keeps_setKeyInput_any { s with inputs := rest } k pressed
      exact ⟨⟨(hkeeps .running (by simp)).trans hr, (hkeeps .batch (by simp)).trans hb⟩, hkeeps .inputs (by simp),
        hdrop.trans (hkeeps.mono fun _ => .inr)⟩
  · rw [step_host hb] at ht
    cases ht
    obtain ⟨-, htake⟩ | ⟨w, op, rest, hin, htake⟩ := takeInput_cases s
    · rw [htake, hr] at hrun
      cases hrun
    · rw [htake] at hrun
      obtain rfl := eq_start_of_deliver_running (s := { s with inputs := rest }) hr hrun
      exact ⟨w, rest, hin⟩

end Sys2Proof.Machine
end


section
/-! SUPPORT. The cycle and the step: their errors, and what every step keeps (60_exceptions.md R107 to R113). -/
namespace Sys2Proof.Machine

/-! ### Fetch (R37) -/

/-- An opcode is fetched exactly when both its bytes lie inside the address space. -/
theorem fetch_eq_some_iff {s : State} {op : Opcode} : s.fetch = some op ↔ s.pc.toNat ≤ 0xFFE ∧
    opcodeOf (s.memRead (BitVec.ofNat 12 s.pc.toNat)) (s.memRead (BitVec.ofNat 12 (s.pc.toNat + 1))) = op := by
  unfold State.fetch
  by_cases hpc : 0xFFF < s.pc.toNat + 1
  · rw [if_pos hpc]
    exact iff_of_false (by simp) (by omega)
  · rw [if_neg hpc, Option.some_inj]
    exact (and_iff_right (by omega)).symm

theorem fetch_eq_none_iff {s : State} : s.fetch = none ↔ 0xFFF < s.pc.toNat + 1 := by
  simp [State.fetch]

theorem cycle_of_fetch_none {s : State} (h : s.fetch = none) :
    cycle s = .next (s.raiseFatal .invalidOpcodeFetch 0x0000) := by
  rw [cycle, h]

/-- A word that decodes, fetched, runs its instruction. -/
theorem cycle_of_decodeWord {s : State} {op : Opcode} {i : Instr} (hf : s.fetch = some op) (hd : decodeWord op = .ok i) :
    cycle s = exec i s := by
  rw [cycle, hf]
  simp only [decode_bytes, hd]

/-- A word that no entry of the table matches, fetched, is an error. -/
theorem cycle_of_no_match {s : State} {op : Opcode} (hf : s.fetch = some op)
    (hno : ∀ r ∈ decodeTable, op &&& r.mask ≠ r.value) : cycle s = .next (s.raiseFatal .unknownInstruction op) := by
  have hd : decodeWord op = .error (.unknownInstruction op) := by
    have hfind : decodeTable.find? (fun r => r.accepts op) = none :=
      List.find?_eq_none.mpr fun r hr hacc => hno r hr (beq_iff_eq.mp hacc)
    rw [decodeWord, hfind]
  rw [cycle, hf]
  simp only [decode_bytes, hd]

/-! ### The errors of a cycle (R110) -/

/-- What a state must be for a cycle to raise an error of a kind that reports the opcode `op`. -/
def State.ErrorCause (s : State) (op : Opcode) : FatalKind → Prop
  | .invalidOpcodeFetch => s.fetch = none ∧ op = 0x0000
  | .unknownInstruction => s.fetch = some op ∧ decodeWord op = .error (.unknownInstruction op)
  | .callStackOverflow => s.fetch = some op ∧ op.toNat / 0x1000 = 2 ∧ s.sp.val = 16
  | .callStackUnderflow => s.fetch = some op ∧ op = 0x00EE ∧ s.sp.val = 0

/-- A cycle raises an error whose cause is there, or runs the instruction it fetched, which raises none. -/
theorem cycle_next (s : State) :
    (∃ kind op, cycle s = .next (s.raiseFatal kind op) ∧ s.ErrorCause op kind) ∨
    ∃ op i t, s.fetch = some op ∧ decodeWord op = .ok i ∧ s.execError i = none ∧ cycle s = .next t ∧
      exec i s = .next t := by
  obtain ⟨hf, hc⟩ | ⟨op, hf, hd, hc⟩ | ⟨op, i, hf, hd, hc⟩ := cycle_cases s
  · exact .inl ⟨_, _, hc, hf, rfl⟩
  · exact .inl ⟨_, _, hc, hf, hd⟩
  · cases herr : s.execError i with
    | none =>
      obtain ⟨t, ht, -⟩ := exists_keeps_exec herr
      exact .inr ⟨op, i, t, hf, hd, herr, hc.trans ht, ht⟩
    | some kind =>
      refine .inl ⟨kind, op, ?_, ?_⟩
      · rw [hc, exec_of_execError herr, (encodeOfDecode op i hd).2]
      · have henc := (encodeOfDecode op i hd).2
        obtain ⟨nnn, rfl, hsp, rfl⟩ | ⟨rfl, hsp, rfl⟩ := execError_eq_some_iff.mp herr
        · exact ⟨hf, henc ▸ (fields_formFA 2 nnn).2, hsp⟩
        · exact ⟨hf, henc.symm, hsp⟩

/-- Settles O8: the entry's record and frame, and a fetch at 0xFFF or above. -/
theorem fatalErrorEntry : Obligations.FatalErrorEntry :=
  ⟨fun s kind op => ⟨rfl, rfl, rfl, rfl, rfl, keeps_raiseFatal s kind op⟩,
    fun _ hpc => cycle_of_fetch_none (fetch_eq_none_iff.mpr (by omega)), rfl⟩

/-- Settles O6: on the interpreter's turn a step is a cycle of `beginCycle`, which the fetch and the decode do not tell from
the state. -/
theorem stepRunsTheDecodedInstruction : Obligations.StepRunsTheDecodedInstruction := by
  intro s n hi lo i hr hb hk hpc hhi hlo hdec
  have hf : s.beginCycle.fetch = some (opcodeOf hi lo) := fetch_eq_some_iff.mpr ⟨hpc, hhi ▸ hlo ▸ rfl⟩
  have hd : decodeWord (opcodeOf hi lo) = .ok i := by
    simp only [decode] at hdec
    split at hdec
    next j hj => simpa using hj.trans (by simpa using hdec)
    next => cases hdec
  refine ⟨(step_interpreter hr hb hk).trans (cycle_of_decodeWord hf hd), ?_, rfl, keeps_beginCycle s⟩
  simp [hb]

/-- An entry of an error differs from every state an instruction gives that raises none: such an instruction sends no
`fatal` event. -/
theorem execError_of_exec_raiseFatal {i : Instr} {s : State} {kind : FatalKind} {op : Opcode}
    (h : exec i s = .next (s.raiseFatal kind op)) : s.execError i = some kind := by
  cases herr : s.execError i with
  | some kind' =>
    rw [exec_of_execError herr] at h
    have herrs := congrArg State.err (Host.Outcome.next.inj h)
    simp only [raiseFatal_err, Option.some.injEq, FatalRecord.mk.injEq] at herrs
    rw [herrs.1]
  | none =>
    by_cases hw : s.Writes i .outputs
    · obtain ⟨nnn, rfl⟩ := writes_outputs hw
      have hout := congrArg State.outputs (Host.Outcome.next.inj h)
      simp at hout
    · have hout : (s.raiseFatal kind op).outputs = s.outputs := keeps_exec h herr .outputs hw
      exact absurd hout (by simp)

/-- Settles O7: the stages of the cycle in their order, the errors of execution, and the step of a stopped run. -/
theorem cycleFetchesDecodesExecutes : Obligations.CycleFetchesDecodesExecutes := by
  refine ⟨fun s hpc => ⟨_, cycle_of_fetch_none (fetch_eq_none_iff.mpr hpc)⟩, fun s op hpc hop => ?stages,
    fun s i kind op h => ?errors, keeps_raiseFatal, fun s hr => ?stopped⟩
  case stages =>
    have hf : s.fetch = some op :=
      fetch_eq_some_iff.mpr ⟨by omega, BitVec.eq_of_toNat_eq ((opcodeOf_toNat _ _).trans hop.symm)⟩
    exact ⟨cycle_of_no_match hf, fun i => cycle_of_decodeWord hf⟩
  case errors =>
    obtain ⟨nnn, rfl, -, rfl⟩ | ⟨rfl, -, rfl⟩ := execError_eq_some_iff.mp (execError_of_exec_raiseFatal h)
    · exact .inl ⟨nnn, rfl, rfl⟩
    · exact .inr ⟨rfl, rfl⟩
  case stopped =>
    obtain ⟨hs, -⟩ | ⟨n, -, hrun, -⟩ | ⟨n, hs, -⟩ := step_cases s
    · exact .inl hs
    · rw [hr] at hrun
      cases hrun
    · exact .inr hs

/-! ### One cycle of the batch (R108) -/

/-- What an instruction leaves of the run control, from the frame of every instruction. -/
theorem keeps_control {i : Instr} {s t : State} (h : exec i s = .next t) (herr : s.execError i = none) :
    KeepsOutside (fun p => p ∉ [.running, .err, .tone, .cfg, .batch, .inputs] ∧ ∀ k, p ≠ .key k) s t :=
  (keeps_exec h herr).mono fun _ => not_writes_control

/-- Settles O12: a cycle of the batch raises an error, which ends the tick, or runs an instruction that leaves the batch, the
tone and the run as `beginCycle` put them. -/
theorem batchRunsOneCycleAtATime : Obligations.BatchRunsOneCycleAtATime := by
  intro s n hr hb hk
  rw [step_interpreter hr hb hk]
  obtain ⟨kind, op, hc, -⟩ | ⟨op, i, t, -, -, herr, hc, ht⟩ := cycle_next s.beginCycle
  · exact ⟨_, hc, rfl, rfl, .inr ⟨rfl, rfl, rfl, _, rfl, rfl⟩⟩
  · have hkeeps := keeps_control ht herr
    refine ⟨t, hc, hkeeps .cfg (by simp), hkeeps .inputs (by simp), .inl ⟨?_, ?_, hkeeps .tone (by simp)⟩⟩
    · exact (hkeeps .running (by simp)).trans hr
    · exact (hkeeps .batch (by simp)).trans (by simp [hb])

/-! ### What a step can do -/

/-- Every step goes on (log 7). -/
theorem exists_step (s : State) : ∃ t, step s = .next t := by
  obtain ⟨hs, -⟩ | ⟨n, hs, -⟩ | ⟨n, hs, -⟩ := step_cases s
  · exact ⟨_, hs⟩
  · obtain ⟨kind, op, hc, -⟩ | ⟨op, i, t, -, -, -, hc, -⟩ := cycle_next s.beginCycle
    · exact ⟨_, hs.trans hc⟩
    · exact ⟨_, hs.trans hc⟩
  · exact ⟨_, hs⟩

/-- A step has nothing to do, takes an input, which inside a tick is a key change, runs a cycle, which raises an error or
does not, or ends a tick. -/
theorem step_inv {s t : State} (h : step s = .next t) :
    t = s ∨
    (∃ w op rest, s.inputs = ⟨w, op⟩ :: rest ∧ (s.batch = none ∨ ∃ k pressed, op = .setKey k pressed) ∧
      t = { s with inputs := rest }.deliver op) ∨
    (∃ kind op, s.running = true ∧ s.ErrorCause op kind ∧ t = s.beginCycle.raiseFatal kind op) ∨
    (∃ op i, s.running = true ∧ s.fetch = some op ∧ decodeWord op = .ok i ∧ s.beginCycle.execError i = none ∧
      exec i s.beginCycle = .next t) ∨
    t = s.endTick := by
  obtain ⟨hs, hturn⟩ | ⟨n, hs, hr, -⟩ | ⟨n, hs, -⟩ := step_cases s
  · rw [hs] at h
    cases h
    obtain ⟨-, htake⟩ | ⟨w, op, rest, hin, htake⟩ := takeInput_cases s
    · exact .inl htake
    · refine .inr (.inl ⟨w, op, rest, hin, hturn.imp_right fun hk => ?_, htake⟩)
      obtain ⟨k, pressed, rest', hdue⟩ := keyDue_inputs hk
      rw [hin] at hdue
      cases hdue
      exact ⟨k, pressed, rfl⟩
  · obtain ⟨kind, op, hc, hcause⟩ | ⟨op, i, u, hf, hd, herr, hc, hexec⟩ := cycle_next s.beginCycle
    · have ht : State.raiseFatal s.beginCycle kind op = t := Host.Outcome.next.inj ((hs.trans hc).symm.trans h)
      refine .inr (.inr (.inl ⟨kind, op, hr, ?_, ht.symm⟩))
      cases kind <;> exact hcause
    · obtain rfl : u = t := Host.Outcome.next.inj ((hs.trans hc).symm.trans h)
      exact .inr (.inr (.inr (.inl ⟨op, i, hr, hf, hd, herr, hexec⟩)))
  · exact .inr (.inr (.inr (.inr (Host.Outcome.next.inj (h.symm.trans hs)))))

/-! ### Errors (R110, R111) -/

/-- An operation of the host leaves the error record or clears it. -/
theorem deliver_err (s : State) (op : HostOp) : (s.deliver op).err = s.err ∨ (s.deliver op).err = none := by
  cases op with
  | reset => exact .inr rfl
  | load p =>
    rw [State.deliver]
    obtain hload | ⟨m, hload, -⟩ := loadProgram_cases s p
    · exact .inl (by rw [hload, emit_err])
    · exact .inr (by rw [hload]; rfl)
  | start =>
    rw [State.deliver]
    cases hr : s.running with
    | true => exact .inl (by rw [startRun_of_running hr])
    | false => exact .inr (by rw [startRun_of_stopped hr])
  | stop => exact .inl (keeps_stopRun s .err (by simp))
  | setKey k pressed => exact .inl (keeps_setKeyInput_any s k pressed .err (by simp))
  | tick => exact .inl (keeps_beginTick s .err (by simp))

/-- Settles O9: an input or a tick's end records no new error, and neither does an instruction that raises none; the cycle's
own errors come with their causes. -/
theorem newErrorsArePrecise : Obligations.NewErrorsArePrecise := by
  intro s
  obtain ⟨t, h⟩ := exists_step s
  refine ⟨t, h, fun r hr hnew => ?_⟩
  obtain rfl | ⟨w, op, rest, -, -, rfl⟩ | ⟨kind, op, -, hcause, rfl⟩ | ⟨op, i, -, -, -, herr, hexec⟩ | rfl := step_inv h
  · exact absurd rfl hnew
  · obtain hsame | hnone := deliver_err { s with inputs := rest } op
    · exact absurd hsame hnew
    · rw [hnone] at hr
      cases hr
  · cases hr
    refine ⟨rfl, rfl, rfl, rfl, rfl, ?_, ?_⟩
    · exact KeepsAllBut.mono ((keeps_beginCycle s).trans (keeps_raiseFatal _ kind op)) (by simp)
    · cases kind <;> exact hcause
  · exact absurd (keeps_control hexec herr .err (by simp)) hnew
  · exact absurd rfl hnew

end Sys2Proof.Machine
end


section
/-! SUPPORT. What can change a timer, a key or a parameter in one step (10_state.md R26, R27, R29; 60_exceptions.md R109,
R118). -/
namespace Sys2Proof.Machine

/-- What an operation of the host does to the timers. -/
theorem deliver_timers (s : State) (op : HostOp) :
    ((s.deliver op).dt = s.dt ∧ (s.deliver op).st = s.st) ∨
    (op = .tick ∧ s.running = true ∧ (s.deliver op).dt = countDown s.dt ∧ (s.deliver op).st = countDown s.st) ∨
    ((op = .reset ∨ ∃ p, op = .load p) ∧ (s.deliver op).dt = 0 ∧ (s.deliver op).st = 0) := by
  cases op with
  | reset => exact .inr (.inr ⟨.inl rfl, rfl, rfl⟩)
  | load p =>
    rw [State.deliver]
    obtain hload | ⟨m, hload, -⟩ := loadProgram_cases s p
    · exact .inl (by rw [hload]; exact ⟨rfl, rfl⟩)
    · exact .inr (.inr ⟨.inr ⟨p, rfl⟩, by rw [hload]; exact ⟨rfl, rfl⟩⟩)
  | start => exact .inl ⟨keeps_startRun s .delay (by simp), keeps_startRun s .sound (by simp)⟩
  | stop => exact .inl ⟨keeps_stopRun s .delay (by simp), keeps_stopRun s .sound (by simp)⟩
  | setKey k pressed =>
    have hkeeps := keeps_setKeyInput_any s k pressed
    exact .inl ⟨hkeeps .delay (by simp), hkeeps .sound (by simp)⟩
  | tick =>
    rw [State.deliver]
    cases hr : s.running with
    | true => exact .inr (.inl ⟨rfl, rfl, by rw [beginTick_of_running hr]; exact ⟨rfl, rfl⟩⟩)
    | false => exact .inl (by rw [beginTick_of_stopped hr]; exact ⟨rfl, rfl⟩)

/-- What one step does to the timers, both at once. -/
theorem step_timers {s t : State} (h : step s = .next t) :
    (t.dt = s.dt ∧ t.st = s.st) ∨
    (∃ w rest, s.inputs = ⟨w, .tick⟩ :: rest ∧ t.dt = countDown s.dt ∧ t.st = countDown s.st ∧ s.running = true ∧
      s.batch = none) ∨
    (∃ w rest, (s.inputs = ⟨w, .reset⟩ :: rest ∨ ∃ p, s.inputs = ⟨w, .load p⟩ :: rest) ∧ t.dt = 0 ∧ t.st = 0 ∧
      s.batch = none) ∨
    (∃ op x, s.fetch = some op ∧ s.running = true ∧
      (decodeWord op = .ok (.ldDtVx x) ∧ t.dt = s.getV x ∧ t.st = s.st ∨
       decodeWord op = .ok (.ldStVx x) ∧ t.st = s.getV x ∧ t.dt = s.dt)) := by
  obtain rfl | ⟨w, op, rest, hin, hturn, rfl⟩ | ⟨kind, op, -, -, rfl⟩ | ⟨op, i, hr, hf, hd, herr, hexec⟩ | rfl := step_inv h
  · exact .inl ⟨rfl, rfl⟩
  · obtain hsame | ⟨rfl, hr, hdt, hst⟩ | ⟨hop, hdt, hst⟩ := deliver_timers { s with inputs := rest } op
    · exact .inl hsame
    · exact .inr (.inl ⟨w, rest, hin, hdt, hst, hr, hturn.resolve_right (by simp)⟩)
    · obtain rfl | ⟨p, rfl⟩ := hop
      · exact .inr (.inr (.inl ⟨w, rest, .inl hin, hdt, hst, hturn.resolve_right (by simp)⟩))
      · exact .inr (.inr (.inl ⟨w, rest, .inr ⟨p, hin⟩, hdt, hst, hturn.resolve_right (by simp)⟩))
  · exact .inl ⟨rfl, rfl⟩
  · by_cases hdt : s.beginCycle.Writes i .delay
    · obtain ⟨x, rfl⟩ := writes_delay hdt
      cases hexec
      exact .inr (.inr (.inr ⟨op, x, hf, hr, .inl ⟨hd, rfl, rfl⟩⟩))
    by_cases hst : s.beginCycle.Writes i .sound
    · obtain ⟨x, rfl⟩ := writes_sound hst
      cases hexec
      exact .inr (.inr (.inr ⟨op, x, hf, hr, .inr ⟨hd, rfl, rfl⟩⟩))
    have hkeeps := keeps_exec hexec herr
    exact .inl ⟨hkeeps .delay hdt, hkeeps .sound hst⟩
  · exact .inl ⟨rfl, rfl⟩

/-- Settles O14: a timer that differs after a step rules out every case of `step_timers` that leaves it alone. -/
theorem timersChangeOnlyByTickLoadOrWrite : Obligations.TimersChangeOnlyByTickLoadOrWrite := by
  intro s t h
  obtain ⟨hdt, hst⟩ | ⟨w, rest, hin, hdt, hst, hr, hb⟩ | ⟨w, rest, hin, hdt, hst, hb⟩ |
    ⟨op, x, hf, hr, ⟨hd, hdt, hst⟩ | ⟨hd, hst, hdt⟩⟩ := step_timers h
  · exact ⟨fun hne => absurd hdt hne, fun hne => absurd hst hne⟩
  · refine ⟨fun hne => .inl ⟨w, rest, hin, ?_, hr, hb⟩, fun hne => .inl ⟨w, rest, hin, ?_, hr, hb⟩⟩
    · rw [hdt] at hne ⊢
      exact countDown_of_ne hne
    · rw [hst] at hne ⊢
      exact countDown_of_ne hne
  · exact ⟨fun _ => .inr (.inl ⟨w, rest, hin, hdt, hb⟩), fun _ => .inr (.inl ⟨w, rest, hin, hst, hb⟩)⟩
  · exact ⟨fun _ => .inr (.inr ⟨op, x, hf, hd, hdt, hr⟩), fun hne => absurd hst hne⟩
  · exact ⟨fun hne => absurd hdt hne, fun _ => .inr (.inr ⟨op, x, hf, hd, hst, hr⟩)⟩

/-! ### The keypad and the parameters (R29, R118) -/

/-- No operation of the host changes a parameter. -/
theorem deliver_cfg (s : State) (op : HostOp) : (s.deliver op).cfg = s.cfg := by
  cases op with
  | reset => rfl
  | load p =>
    rw [State.deliver]
    obtain hload | ⟨m, hload, -⟩ := loadProgram_cases s p
    · rw [hload, emit_cfg]
    · rw [hload]
      rfl
  | start => exact keeps_startRun s .cfg (by simp)
  | stop => exact keeps_stopRun s .cfg (by simp)
  | setKey k pressed => exact keeps_setKeyInput_any s k pressed .cfg (by simp)
  | tick => exact keeps_beginTick s .cfg (by simp)

/-- Only `setKey` changes a key, and only the one it names. -/
theorem deliver_key {s : State} {op : HostOp} {k : Fin 16} (h : (s.deliver op).key[k.val] ≠ s.key[k.val]) :
    ∃ pressed, op = .setKey k.val pressed ∧ (s.deliver op).key[k.val] = pressed := by
  cases op with
  | reset => exact absurd rfl h
  | load p =>
    rw [State.deliver] at h
    obtain hload | ⟨m, hload, -⟩ := loadProgram_cases s p <;> rw [hload] at h <;> exact absurd rfl h
  | start => exact absurd (keeps_startRun s (.key k) (by simp)) h
  | stop => exact absurd (keeps_stopRun s (.key k) (by simp)) h
  | setKey j pressed =>
    rw [State.deliver] at h ⊢
    obtain hkey | ⟨j, rfl, -⟩ := setKeyInput_cases s j pressed
    · rw [hkey] at h
      exact absurd rfl h
    · by_cases hjk : k = j
      · subst hjk
        exact ⟨pressed, rfl, setKeyInput_key s k pressed⟩
      · exact absurd (keeps_setKeyInput s j pressed (.key k) (by simpa using hjk)) h
  | tick => exact absurd (keeps_beginTick s (.key k) (by simp)) h

/-- Settles O21: of the kinds of step only the taking of an input touches the keypad, and none touches a parameter. -/
theorem onlySetKeyChangesTheKeypad : Obligations.OnlySetKeyChangesTheKeypad := by
  intro s t h
  obtain rfl | ⟨w, op, rest, hin, -, rfl⟩ | ⟨kind, op, -, -, rfl⟩ | ⟨op, i, -, -, -, herr, hexec⟩ | rfl := step_inv h
  · exact ⟨rfl, fun k hk => absurd rfl hk⟩
  · refine ⟨deliver_cfg { s with inputs := rest } op, fun k hk => ?_⟩
    obtain ⟨pressed, rfl, hset⟩ := deliver_key (s := { s with inputs := rest }) hk
    exact ⟨w, pressed, rest, hin, hset⟩
  · exact ⟨rfl, fun k hk => absurd rfl hk⟩
  · have hkeeps := keeps_control hexec herr
    exact ⟨hkeeps .cfg (by simp), fun k hk => absurd (hkeeps (.key k) (by simp)) hk⟩
  · exact ⟨rfl, fun k hk => absurd rfl hk⟩

end Sys2Proof.Machine
end


section
/-! SUPPORT. The invariant of the machine, operation by operation and then for every step (10_state.md R20, R30, R31;
60_exceptions.md R108, R111). -/
namespace Sys2Proof.Machine

/-- Every instruction keeps the canonical form of memory. -/
theorem wf_exec {i : Instr} {s t : State} (h : exec i s = .next t) (hwf : Memory.wf s.cfg.font s.mem) :
    Memory.wf t.cfg.font t.mem := by
  cases i
  case ldB x =>
    cases h
    exact wf_memWrite _ _ (wf_memWrite _ _ (wf_memWrite _ _ hwf))
  case stRegs x =>
    cases h
    obtain ⟨m, hm, hkeeps⟩ := storeRegs_spec s (x.val + 1)
    rw [advance_cfg, advance_mem, hm]
    exact hkeeps hwf
  case ldRegs x =>
    cases h
    obtain ⟨v, hv⟩ := loadRegs_spec s (x.val + 1)
    rw [advance_cfg, advance_mem, hv]
    exact hwf
  case ret =>
    simp only [exec, execRet] at h
    split at h <;> cases h <;> exact hwf
  case call nnn =>
    simp only [exec, execCall] at h
    split at h <;> cases h
    · exact hwf
    · simpa using hwf
  case ldVxK x =>
    simp only [exec, execLdVxK] at h
    split at h <;> cases h <;> exact hwf
  all_goals
    cases h
    exact hwf

/-- The successor passes an address by at most its step. -/
theorem seq_toNat_le (cfg : Config) (a : Pc) (k : Nat) : (seq cfg a k).toNat ≤ a.toNat + k := by
  unfold seq
  split
  · rw [BitVec.toNat_ofNat]
    exact (Nat.mod_le _ _).trans (Nat.mod_le _ _)
  · rw [BitVec.toNat_ofNat]
    exact Nat.mod_le _ _

theorem toPc_le (a : Addr) : (Addr.toPc a).toNat ≤ 0xFFF := by
  rw [toPc_toNat]
  omega

/-- An instruction fetched and raising no error leaves pc at most four past the last address it can be fetched from. -/
theorem exec_pc_le {i : Instr} {s t : State} (h : exec i s = .next t) (herr : s.execError i = none)
    (hpc : s.pc.toNat ≤ 0xFFE) : t.pc.toNat ≤ 0x1002 := by
  obtain ⟨hret, hcall⟩ := depth_of_execError_none herr
  have hseq {k : Nat} (hk : k ≤ 4) : (seq s.cfg s.pc k).toNat ≤ 0x1002 := by
    have := seq_toNat_le s.cfg s.pc k
    omega
  have hjump (a : Addr) : (Addr.toPc a).toNat ≤ 0x1002 := (toPc_le a).trans (by omega)
  have hland (a : Addr) : (seq s.cfg (Addr.toPc a) 2).toNat ≤ 0x1002 := by
    have := seq_toNat_le s.cfg (Addr.toPc a) 2
    have := toPc_le a
    omega
  rw [nextPcTable.1 i s t h hret hcall]
  cases i
  case seImm | sneImm | seReg | sneReg | skp | sknp => exact hseq (by split <;> omega)
  case jp nnn | call nnn => exact hjump nnn
  case ret => exact hland _
  case jpV0 nnn =>
    dsimp only
    split
    · exact hland _
    · exact hjump _
  case ldVxK x =>
    dsimp only
    split
    · split
      · exact hseq (by omega)
      · omega
    · exact hseq (by split <;> omega)
  all_goals exact hseq (by omega)

/-- Taking away an input, which the invariant does not look at. -/
theorem inv_dropInput {s : State} (h : s.Inv) (rest : List HostInput) : ({ s with inputs := rest } : State).Inv :=
  ⟨h.memory, h.pc, h.tone, h.err, h.batch⟩

theorem inv_emit {s : State} (h : s.Inv) (o : Output) : (s.emit o).Inv := ⟨h.memory, h.pc, h.tone, h.err, h.batch⟩

theorem inv_resetBlock {s : State} {m : List Host.Cell} (hwf : Memory.wf s.cfg.font m) :
    ({ s.resetBlock with mem := m } : State).Inv :=
  ⟨hwf, (by decide : (0x200 : Pc).toNat ≤ 0x1002), nofun, fun h => absurd rfl h, fun h => absurd rfl h⟩

theorem inv_setKeyInput {s : State} (h : s.Inv) (k : Nat) (pressed : Bool) : (s.setKeyInput k pressed).Inv := by
  obtain hkey | ⟨j, -, hkey⟩ := setKeyInput_cases s k pressed <;> rw [hkey]
  · exact inv_emit h _
  · exact ⟨h.memory, h.pc, h.tone, h.err, h.batch⟩

/-- Between ticks every operation of the host keeps the invariant: `stop`, which halts the run, finds no tick in progress. -/
theorem inv_deliver {s : State} (h : s.Inv) (hb : s.batch = none) (op : HostOp) : (s.deliver op).Inv := by
  cases op with
  | reset => exact inv_resetBlock (wf_nil _)
  | load p =>
    rw [State.deliver]
    obtain hload | ⟨m, hload, hwf⟩ := loadProgram_cases s p <;> rw [hload]
    · exact inv_emit h _
    · exact inv_resetBlock hwf
  | start =>
    rw [State.deliver]
    cases hr : s.running with
    | true => rwa [startRun_of_running hr]
    | false =>
      rw [startRun_of_stopped hr]
      exact ⟨h.memory, (by decide : (0x200 : Pc).toNat ≤ 0x1002), fun _ => rfl, fun he => absurd rfl he, fun _ => rfl⟩
  | stop =>
    rw [State.deliver]
    cases hr : s.running with
    | true =>
      rw [stopRun_of_running hr]
      exact ⟨h.memory, h.pc, nofun, fun _ => rfl, fun hne => absurd hb hne⟩
    | false => rwa [stopRun_of_stopped hr]
  | setKey k pressed => exact inv_setKeyInput h k pressed
  | tick =>
    rw [State.deliver]
    cases hr : s.running with
    | true =>
      rw [beginTick_of_running hr]
      exact ⟨h.memory, h.pc, h.tone, h.err, fun _ => hr⟩
    | false => rwa [beginTick_of_stopped hr]

theorem inv_beginCycle {s : State} (h : s.Inv) : s.beginCycle.Inv :=
  ⟨h.memory, h.pc, h.tone, h.err, fun hb => h.batch (by simpa using hb)⟩

theorem inv_raiseFatal {s : State} (h : s.Inv) (kind : FatalKind) (op : Opcode) : (s.raiseFatal kind op).Inv :=
  ⟨h.memory, h.pc, nofun, fun _ => rfl, fun hb => absurd rfl hb⟩

theorem inv_endTick {s : State} (h : s.Inv) : s.endTick.Inv :=
  ⟨h.memory, h.pc, fun ht => (Bool.and_eq_true _ _ ▸ ht).1, h.err, fun hb => absurd rfl hb⟩

/-- An instruction fetched and raising no error keeps the invariant: memory and pc by its own rules, the rest by its
frame. -/
theorem inv_exec {i : Instr} {s t : State} (h : s.Inv) (hpc : s.pc.toNat ≤ 0xFFE) (herr : s.execError i = none)
    (hexec : exec i s = .next t) : t.Inv := by
  have hkeeps := keeps_control hexec herr
  have hrun : t.running = s.running := hkeeps .running (by simp)
  have htone : t.tone = s.tone := hkeeps .tone (by simp)
  have herr' : t.err = s.err := hkeeps .err (by simp)
  have hbatch : t.batch = s.batch := hkeeps .batch (by simp)
  refine ⟨wf_exec hexec h.memory, exec_pc_le hexec herr hpc, ?_, ?_, ?_⟩
  · rw [htone, hrun]
    exact h.tone
  · rw [herr', hrun]
    exact h.err
  · rw [hbatch, hrun]
    exact h.batch

/-- Settles O22: memory is unlisted everywhere, and the reset state is stopped with no error and no tick. -/
theorem invariantHoldsAtReset : Obligations.InvariantHoldsAtReset :=
  inv_resetBlock (s := State.reset) (wf_nil _)

/-- Settles O23: an input is taken between ticks or is a key change, a cycle raises an error or runs an instruction fetched
at 0xFFE or below, and a tick's end sets the tone from `running`. -/
theorem everyStepKeepsTheInvariant : Obligations.EveryStepKeepsTheInvariant := by
  intro s t hinv h
  obtain rfl | ⟨w, op, rest, -, hturn, rfl⟩ | ⟨kind, op, -, -, rfl⟩ | ⟨op, i, -, hf, -, herr, hexec⟩ | rfl := step_inv h
  · exact hinv
  · obtain hb | ⟨k, pressed, rfl⟩ := hturn
    · exact inv_deliver (inv_dropInput hinv rest) hb op
    · exact inv_setKeyInput (inv_dropInput hinv rest) k pressed
  · exact inv_raiseFatal (inv_beginCycle hinv) kind op
  · exact inv_exec (inv_beginCycle hinv) (fetch_eq_some_iff.mp hf).1 herr hexec
  · exact inv_endTick hinv

end Sys2Proof.Machine
end


section
/-! SUPPORT. A word placed where the next fetch reads (20_memory.md R50, 70_reset_and_hazards.md R127). -/
namespace Sys2Proof.Machine

/-- The two bytes of a word, stored at pc and after it, are fetched as the word. -/
theorem fetch_of_stored {s : State} {op : Opcode} (hpc : s.pc.toNat ≤ 0xFFE) :
    ((s.memWrite (BitVec.ofNat 12 s.pc.toNat) (highByte op)).memWrite
      (BitVec.ofNat 12 (s.pc.toNat + 1)) (lowByte op)).fetch = some op := by
  have hne : BitVec.ofNat 12 s.pc.toNat ≠ BitVec.ofNat 12 (s.pc.toNat + 1) := fun h => by
    have := congrArg BitVec.toNat h
    simp only [BitVec.toNat_ofNat] at this
    omega
  refine fetch_eq_some_iff.mpr ⟨hpc, ?_⟩
  simp only [memWrite_pc]
  rw [memRead_memWrite_ne _ _ hne, memRead_memWrite_same, memRead_memWrite_same, opcodeOf_bytes]

/-- The state a word is placed in has the word at pc. -/
theorem fetch_placeWord (s : State) (op : Opcode) : (s.placeWord op).fetch = some op := by
  unfold State.placeWord
  split
  · exact fetch_of_stored (s := s.setPc 0x200) (by decide : (0x200 : Pc).toNat ≤ 0xFFE)
  · exact fetch_of_stored (by omega)

/-- Placing a word leaves whose turn it is as it was. -/
theorem keeps_placeWord (s : State) (op : Opcode) :
    (s.placeWord op).running = s.running ∧ (s.placeWord op).batch = s.batch ∧ (s.placeWord op).keyDue = s.keyDue := by
  unfold State.placeWord
  split <;> exact ⟨rfl, rfl, rfl⟩

/-- Whether a key change is due depends on the inputs alone. -/
theorem keyDue_congr {s t : State} (h : t.inputs = s.inputs) : t.keyDue = s.keyDue := by
  unfold State.keyDue
  rw [h]

theorem readyToRun_turn (s : State) : s.readyToRun.running = true ∧ s.readyToRun.keyDue = false ∧
    ∃ n, s.readyToRun.batch = some (n + 1) := by
  refine ⟨rfl, ?_, (s.batch.getD 1).max 1 - 1, ?_⟩
  · cases hk : s.keyDue with
    | true => exact keyDue_congr (s := { s with inputs := [] }) (if_pos hk)
    | false => exact (keyDue_congr (if_neg (Bool.not_eq_true _ ▸ hk))).trans hk
  · have : 1 ≤ (s.batch.getD 1).max 1 := Nat.le_max_right _ _
    simp only [State.readyToRun, Option.some_inj]
    omega

/-- Settles O52: the stored bytes are the fetched ones, and `withFetchWord` makes it the interpreter's turn with the word
at pc. -/
theorem placedWordRunsNext : Obligations.PlacedWordRunsNext := by
  refine ⟨fun s op hpc => fetch_of_stored hpc, fun s i hwf => ?_⟩
  obtain ⟨hr, hk, n, hb⟩ := readyToRun_turn s
  have hword : BitVec.ofNat 16 ((encode i).toNat % 2 ^ 16) = encode i := by
    rw [Nat.mod_eq_of_lt (encode i).isLt, BitVec.ofNat_toNat, BitVec.setWidth_eq]
  rw [State.withFetchWord, hword]
  obtain ⟨hr', hb', hk'⟩ := keeps_placeWord s.readyToRun (encode i)
  rw [step_interpreter (hr'.trans hr) (hb'.trans hb) (hk'.trans hk)]
  exact cycle_of_decodeWord (fetch_placeWord s.readyToRun (encode i)) (decodeWord_encode hwf)

end Sys2Proof.Machine
end


section
/-! SUPPORT. Each instruction's own result, with the frame of `State.Writes` (40_control_flow.md to
44_keypad_timers.md). -/
namespace Sys2Proof.Machine

/-! ### Control transfer (40_control_flow.md) -/

/-- Settles O30: a sum of at most 0x1003 does not reach the 13 bits of pc. -/
theorem sequentialSuccessor : Obligations.SequentialSuccessor := by
  intro cfg a k ha hk
  refine ⟨fun hw => ?_, fun hw => ?_⟩
  · rw [seq, hw, if_neg Bool.false_ne_true, BitVec.toNat_ofNat]
    omega
  · rw [seq, hw, if_pos rfl, BitVec.toNat_ofNat]
    omega

/-- Settles O31: with an entry on the stack RET pops it and jumps two past it. -/
theorem returnResumesAfterTheCall : Obligations.ReturnResumesAfterTheCall := by
  intro s k hsp
  have hpos : 0 < s.sp.val := by omega
  have hk : s.sp.val - 1 = k.val := by omega
  refine ⟨_, exec_ret_of_pos hpos, hk, ?_, KeepsAllBut.mono ((keeps_pop s).trans (keeps_setPc _ _)) (by simp)⟩
  simp only [setPc_pc, State.topEntry, hk]

/-- Settles O32: RET tests the depth before anything else. -/
theorem returnFromEmptyStackUnderflows : Obligations.ReturnFromEmptyStackUnderflows :=
  fun _ hsp => exec_ret_of_zero hsp

/-- Settles O33: with room on the stack CALL pushes the low 12 bits of pc and jumps. -/
theorem callPushesItsOwnAddress : Obligations.CallPushesItsOwnAddress := by
  intro nnn s k hsp
  have hlt : s.sp.val < 16 := by omega
  refine ⟨_, exec_call_of_lt hlt, ?_, ?_, toPc_toNat nnn,
    KeepsAllBut.mono ((keeps_push s _ k hsp).trans (keeps_setPc _ _)) (by simp)⟩
  · rw [setPc_sp, push_of_lt s _ hlt]
    exact congrArg (· + 1) hsp
  · simp only [setPc_stack, push_of_lt s _ hlt, hsp, Vector.getElem_set_self, BitVec.toNat_setWidth]

/-- Settles O34: the opcode that CALL reports is its own encoding. -/
theorem seventeenthCallOverflows : Obligations.SeventeenthCallOverflows := by
  intro nnn s op hsp hop
  have henc : encode (.call nnn) = op := BitVec.eq_of_toNat_eq ((formFA_toNat 2 nnn).trans hop.symm)
  rw [exec_call_of_full hsp, henc]

/-- An address that pc can fetch from survives the push of its 12 bits. -/
theorem toPc_setWidth {a : Pc} (h : a.toNat ≤ 0xFFF) : Addr.toPc (a.setWidth 12) = a := by
  apply BitVec.eq_of_toNat_eq
  rw [toPc_toNat, BitVec.toNat_setWidth]
  omega

/-- Settles O35: RET finds at SP - 1 the address that CALL pushed there, and puts SP back. -/
theorem callThenReturnComesBack : Obligations.CallThenReturnComesBack := by
  intro nnn s t r u hsp hpc ht hrsp hrstack hrcfg hu
  rw [exec_call_fields hsp] at ht
  cases ht
  have hdepth : r.sp.val = s.sp.val + 1 := congrArg Fin.val hrsp
  rw [exec_ret_of_pos (by omega)] at hu
  cases hu
  have htop : r.topEntry = s.pc.setWidth 12 := by
    simp only [State.topEntry, hrstack, hdepth, Nat.add_sub_cancel, Vector.getElem_set_self]
  refine ⟨?_, ?_, fun k hk => ?_⟩
  · rw [setPc_pc, htop, toPc_setWidth hpc, hrcfg]
  · exact Fin.ext (by simp [State.popDepth, hdepth])
  · simp only [setPc_stack, pop_stack, hrstack]
    exact Vector.getElem_set_ne hsp k.isLt (by omega)

/-- Settles O36: each jump sets pc alone, to its target. -/
theorem jumpsLandOnTheirTargets : Obligations.JumpsLandOnTheirTargets := by
  refine ⟨fun nnn s => ⟨_, rfl, toPc_toNat nnn, keeps_setPc s _⟩,
    fun nnn s => ⟨_, rfl, fun hoff => ?_, fun hoff => ?_, keeps_setPc s _⟩⟩
  · rw [setPc_pc, hoff, if_neg Bool.false_ne_true, toPc_toNat, indexedTarget_eq, BitVec.toNat_ofNat]
  · have hmod : BitVec.ofNat 12 ((nnn.toNat + (s.getV 0).toNat) % 4096) = s.indexedTarget nnn := by
      rw [indexedTarget_eq]
      exact BitVec.eq_of_toNat_eq (by simp)
    rw [setPc_pc, hoff, if_pos rfl, hmod]

/-- Settles O37: SYS sends one event, with its own word, and advances. -/
theorem sysOnlySendsADiagnostic : Obligations.SysOnlySendsADiagnostic := by
  refine fun nnn s => ⟨_, encode (.sys nnn), rfl, ?_, rfl, rfl,
    KeepsAllBut.mono ((keeps_emit s _).trans (keeps_advance _ 2)) (by simp)⟩
  exact (formFA_toNat 0 nnn).trans (by simp)

/-- Settles O39: the condition of both skips is that the register names a key and the key is pressed. -/
theorem keySkipsReadOneKey : Obligations.KeySkipsReadOneKey := by
  refine fun s x => ⟨_, _, rfl, rfl, keeps_skipIf s _, keeps_skipIf s _, fun hk => ?_, fun hk => ?_⟩
  · rw [skipIf_pc, skipIf_pc, (keyPressed_iff s _).mpr hk]
    exact ⟨rfl, rfl⟩
  · rw [skipIf_pc, skipIf_pc, Bool.eq_false_iff.mpr (mt (keyPressed_iff s _).mp hk)]
    exact ⟨rfl, rfl⟩

/-! ### Registers and the ALU (41_register_alu.md) -/

/-- Settles O40: three writes to V[X]. -/
theorem loadAddAndCopyRegisters : Obligations.LoadAddAndCopyRegisters := by
  refine fun s x y nn => ⟨_, _, _, rfl, getV_setV_same s x _, rfl, ?_, rfl, getV_setV_same s x _, rfl, rfl, rfl,
    keeps_exec (i := .ldImm x nn) rfl rfl, keeps_exec (i := .addImm x nn) rfl rfl, keeps_exec (i := .ldReg x y) rfl rfl⟩
  rw [advance_getV, getV_setV_same, sumByte_toNat]

/-- Settles O41: three writes to V[X], bit by bit. -/
theorem bitwiseRegisters : Obligations.BitwiseRegisters := by
  refine fun s x y => ⟨_, _, _, rfl, rfl, rfl, fun k => ?_, fun k => ?_, fun k => ?_, rfl, rfl, rfl,
    keeps_exec (i := .orReg x y) rfl rfl, keeps_exec (i := .andReg x y) rfl rfl, keeps_exec (i := .xorReg x y) rfl rfl⟩
  · rw [advance_getV, getV_setV_same, BitVec.getLsbD_or]
  · rw [advance_getV, getV_setV_same, BitVec.getLsbD_and]
  · rw [advance_getV, getV_setV_same, BitVec.getLsbD_xor]

/-! The two orders of result and flag (R77, D11). -/

section
variable (s : State) (x : Reg) (result flag : Byte)

theorem resultThenFlag_flag : (s.resultThenFlag x result flag).getV vf = flag := getV_setV_same _ vf flag

theorem resultThenFlag_result (h : x ≠ vf) : (s.resultThenFlag x result flag).getV x = result := by
  rw [State.resultThenFlag, getV_setV_ne _ _ h, getV_setV_same]

theorem flagThenResult_result : (s.flagThenResult x result flag).getV x = result := getV_setV_same _ x result

theorem flagThenResult_flag (h : x ≠ vf) : (s.flagThenResult x result flag).getV vf = flag := by
  rw [State.flagThenResult, getV_setV_ne _ _ h.symm, getV_setV_same]

end

/-- Settles O42: the flag is written last, so it stays when X = F. -/
theorem addRegistersWithCarry : Obligations.AddRegistersWithCarry := by
  refine fun s x y => ⟨_, rfl, fun hx => ?_, ?_, rfl, keeps_exec (i := .addReg x y) rfl rfl⟩
  · rw [advance_getV, resultThenFlag_result s x _ _ hx, sumByte_toNat]
  · rw [advance_getV, resultThenFlag_flag, carryFlag_toNat]

/-- Settles O43: the flag is written last, so it stays when X = F. -/
theorem subtractRegistersWithBorrow : Obligations.SubtractRegistersWithBorrow := by
  refine fun s x y => ⟨_, _, rfl, rfl, fun hx => ?_, fun hx => ?_, ?_, ?_, rfl, rfl,
    keeps_exec (i := .sub x y) rfl rfl, keeps_exec (i := .subn x y) rfl rfl⟩
  · rw [advance_getV, resultThenFlag_result s x _ _ hx, differenceByte_toNat]
  · rw [advance_getV, resultThenFlag_result s x _ _ hx, differenceByte_toNat]
  · rw [advance_getV, resultThenFlag_flag, notBorrowFlag_toNat]
  · rw [advance_getV, resultThenFlag_flag, notBorrowFlag_toNat]

/-- Settles O44: the result is written last, so it stays when X = F; the source is V[X] or V[Y] by the parameter. -/
theorem shiftRegistersByOne : Obligations.ShiftRegistersByOne := by
  intro s x y v hvx hvy
  have hv : v = (s.shiftSource x y).toNat := by
    unfold State.shiftSource
    cases hm : s.cfg.shiftSrc with
    | vx => exact hvx hm
    | vy => exact hvy hm
  subst hv
  refine ⟨_, _, rfl, rfl, ?_, ?_, fun hx => ?_, fun hx => ?_, rfl, rfl,
    keeps_exec (i := .shr x y) rfl rfl, keeps_exec (i := .shl x y) rfl rfl⟩
  · rw [advance_getV, flagThenResult_result, BitVec.toNat_ushiftRight, Nat.shiftRight_eq_div_pow, pow_one]
  · rw [advance_getV, flagThenResult_result, BitVec.toNat_shiftLeft, Nat.shiftLeft_eq, pow_one]
  · rw [advance_getV, flagThenResult_flag s x _ _ hx, lowBitFlag_toNat]
  · rw [advance_getV, flagThenResult_flag s x _ _ hx, highBitFlag_toNat]

/-- Settles O45: the draw lies in the range of each mode, whatever byte the oracle gives. -/
theorem randomValueIsInRange : Obligations.RandomValueIsInRange := by
  intro s x nn
  have hv : ((s.countDraw.setV x (s.rand nn)).advance 2).getV x = s.rand nn := getV_setV_same _ x _
  refine ⟨_, rfl, fun hm h0 => ?_, fun hm hpos => ?_, fun hm => ?_, fun hm k hk => ?_, rfl, rfl,
    keeps_exec (i := .rnd x nn) rfl rfl⟩
  · have hnn : nn = 0 := BitVec.eq_of_toNat_eq h0
    rw [hv, State.rand, hm, drawInRange, if_pos hnn]
    rfl
  · rw [hv, State.rand, hm]
    exact drawInRange_halfOpen_lt _ hpos
  · rw [hv, State.rand, hm]
    exact drawInRange_inclusive_le _ _
  · rw [hv, State.rand, hm, drawInRange, BitVec.getLsbD_and, Bool.and_eq_true] at hk
    exact hk.2

/-! ### The index register and memory (42_index_memory.md) -/

/-- Settles O47: I is set to the address, or to five times the register, which 12 bits hold. -/
theorem loadTheIndexRegister : Obligations.LoadTheIndexRegister :=
  fun _ nnn x => ⟨_, _, rfl, rfl, rfl, keeps_exec (i := .ldI nnn) rfl rfl, rfl, glyphAddr_toNat _, rfl,
    keeps_exec (i := .ldF x) rfl rfl⟩

/-- Settles O48: the sum and the flag are both of the old I and the old V[X]. -/
theorem addToTheIndexRegister : Obligations.AddToTheIndexRegister := by
  refine fun s x => ⟨_, rfl, BitVec.toNat_ofNat _ _, ?_, rfl, keeps_exec (i := .addI x) rfl rfl⟩
  rw [advance_getV, setI_getV, getV_setV_same, indexOverflowFlag_toNat]

theorem digitByte_toNat (v : Byte) (w : Nat) : (digitByte v w).toNat = v.toNat / w % 10 := by
  rw [digitByte, BitVec.toNat_ofNat]
  omega

/-- Settles O49: the three addresses are different, so each byte is the last one written there. -/
theorem storeDecimalDigits : Obligations.StoreDecimalDigits := by
  intro s x
  have h01 : s.ea 0 ≠ s.ea 1 := ea_ne s (by omega) (by omega) (by omega)
  have h02 : s.ea 0 ≠ s.ea 2 := ea_ne s (by omega) (by omega) (by omega)
  have h12 : s.ea 1 ≠ s.ea 2 := ea_ne s (by omega) (by omega) (by omega)
  refine ⟨_, rfl, ?_, ?_, ?_, ea_eq s 0, ea_eq s 1, ea_eq s 2, rfl, keeps_exec (i := .ldB x) rfl rfl⟩
  · have := (s.getV x).isLt
    rw [← Nat.add_zero s.i.toNat, ← ea_eq, advance_memRead, memRead_memWrite_ne _ _ h02, memRead_memWrite_ne _ _ h01,
      memRead_memWrite_same, digitByte_toNat]
    omega
  · rw [← ea_eq, advance_memRead, memRead_memWrite_ne _ _ h12, memRead_memWrite_same, digitByte_toNat]
  · rw [← ea_eq, advance_memRead, memRead_memWrite_same, digitByte_toNat, Nat.div_one]

/-! ### The keypad and the timers (44_keypad_timers.md) -/

/-- Settles O58: one write each, to a register or to a timer. -/
theorem timerRegisterMoves : Obligations.TimerRegisterMoves :=
  fun s x => ⟨_, _, _, rfl, getV_setV_same s x _, rfl, keeps_exec (i := .ldVxDt x) rfl rfl, rfl, rfl, rfl,
    keeps_exec (i := .ldDtVx x) rfl rfl, rfl, rfl, rfl, keeps_exec (i := .ldStVx x) rfl rfl⟩

/-- FX0A with a key pressed: the lowest one goes to V[X], and pc by the mode (R104). -/
theorem exec_ldVxK_of_key {s : State} {k : Fin 16} (x : Reg) (h : s.lowestKey = some k) :
    exec (.ldVxK x) s = .next ((s.setV x (BitVec.ofNat 8 k.val)).advance (if s.cfg.fx0aMode = .repoll then 2 else 4)) := by
  simp only [exec, execLdVxK, h]
  cases s.cfg.fx0aMode <;> rfl

/-- FX0A with no key pressed: nothing, or the advance alone (R104). -/
theorem exec_ldVxK_of_none {s : State} (x : Reg) (h : s.lowestKey = none) :
    exec (.ldVxK x) s = .next (if s.cfg.fx0aMode = .repoll then s else s.advance 2) := by
  simp only [exec, execLdVxK, h]
  cases s.cfg.fx0aMode <;> rfl

/-- Settles O59: the poll finds the lowest pressed key, or none, and the mode decides about pc. -/
theorem keyWaitPollsOnce : Obligations.KeyWaitPollsOnce := by
  refine ⟨fun s x k hk hlow => ?_, fun s x hnone => ⟨fun hm => ?_, fun hm => ?_⟩⟩
  · refine ⟨_, exec_ldVxK_of_key x (lowestKey_eq_some hk hlow), ?_, rfl, (keeps_setV s x _).trans (keeps_advance _ _)⟩
    rw [advance_getV, getV_setV_same, BitVec.toNat_ofNat]
    omega
  · rw [exec_ldVxK_of_none x (lowestKey_eq_none hnone), if_pos hm]
  · refine ⟨_, exec_ldVxK_of_none x (lowestKey_eq_none hnone), ?_⟩
    rw [hm, if_neg (by decide)]
    exact ⟨rfl, keeps_advance s 2⟩

end Sys2Proof.Machine
end
